-- ==== Sys2Proof/Word.lean ====
section
/-! DEFINITION. The word types of the machine (R8, R9, R21) and their plainest arithmetic. -/

namespace Sys2Proof

/-- An 8-bit value: a register, a timer, a byte of memory (R21, R29, R60). -/
abbrev Byte := BitVec 8

/-- A 16-bit value: an instruction word, PC, I, a stack entry (R24, R26, R28, R90). -/
abbrev Word := BitVec 16

/-- A 4-bit value: an opcode nibble, a row count, a key code (R33, R91). -/
abbrev Nibble := BitVec 4

/-- The 12-bit address immediate NNN (R91). -/
abbrev Addr12 := BitVec 12

/-- A general register number, V0 to VF (R21). -/
abbrev Reg := Fin 16

/-- One row of the screen: bit `x` is the cell in column `x` (R35, R240). -/
abbrev PixelRow := BitVec 64

/-- The flag register VF, "just the last slot of the same array" (R21, R22). -/
def vF : Reg := 15

end Sys2Proof
end

