-- ==== Sys2Proof/Config.lean ====
section
/-! DEFINITION. The implementation parameters of R7 and the free value of the model (R230). -/

namespace Sys2Proof

/-- The four points R7 leaves to the implementation. "The configuration parameters of 00_scope.md rule R7 are
fixed for a run" (R20): no step and no host move of the model changes them. -/
structure Config where
  /-- `P_FONT`: the bytes at addresses 0 to 79 at reset (R40, R41). -/
  pFont   : Vector Byte 80
  /-- `P_INC_I`: whether FX55 and FX65 leave I at I + X + 1 (R205, R206). -/
  pIncI   : Bool
  /-- `P_FX1E`: whether FX1E is a defined instruction (R100, R202). -/
  pFx1e   : Bool
  /-- `P_FONT_WP`: whether writes to addresses 0 to 79 are ignored (R64). -/
  pFontWp : Bool
  deriving DecidableEq, Repr

/-- FREE VALUE (R230): "a free 8-bit input under no law, and every claim must hold for every value". The random
byte of the n-th cycle for which the host script gives none. It has no body, so nothing can be proved of it. -/
opaque Config.freeRandomByte : Nat → Byte

end Sys2Proof
end

