-- ==== Sys2Proof/Machine/Defaults.lean ====
section
/-! DEFINITION. The default parameters of R7, the standard font of R41, and the fixed numbers of reset (R6, R340). -/

namespace Sys2Proof.Machine

/-- The default `P_FONT`: the table of R41, glyph by glyph. -/
def standardFont : Vector Byte 80 :=
  #v[0xF0, 0x90, 0x90, 0x90, 0xF0,   -- glyph 0
     0x20, 0x60, 0x20, 0x20, 0x70,   -- glyph 1
     0xF0, 0x10, 0xF0, 0x80, 0xF0,   -- glyph 2
     0xF0, 0x10, 0xF0, 0x10, 0xF0,   -- glyph 3
     0x90, 0x90, 0xF0, 0x10, 0x10,   -- glyph 4
     0xF0, 0x80, 0xF0, 0x10, 0xF0,   -- glyph 5
     0xF0, 0x80, 0xF0, 0x90, 0xF0,   -- glyph 6
     0xF0, 0x10, 0x20, 0x40, 0x40,   -- glyph 7
     0xF0, 0x90, 0xF0, 0x90, 0xF0,   -- glyph 8
     0xF0, 0x90, 0xF0, 0x10, 0xF0,   -- glyph 9
     0xF0, 0x90, 0xF0, 0x90, 0x90,   -- glyph A
     0xE0, 0x90, 0xE0, 0x90, 0xE0,   -- glyph B
     0xF0, 0x80, 0x80, 0x80, 0xF0,   -- glyph C
     0xE0, 0x90, 0x90, 0x90, 0xE0,   -- glyph D
     0xF0, 0x80, 0xF0, 0x80, 0x80,   -- glyph E, as the table has it (log 11)
     0xF0, 0x80, 0xF0, 0x80, 0xF0]   -- glyph F, as the table has it (log 11)

/-- The defaults of R7. -/
def defaultConfig : Config :=
  { pFont := standardFont, pIncI := true, pFx1e := true, pFontWp := false }

/-- The entry point (R24, R63). -/
def resetPc : Word := 0x200

/-- The program load address (R6, R40). -/
def loadAddress : Nat := 0x200

/-- The longest ROM, 4096 - 512 bytes (R6, R341). -/
def maxRomLength : Nat := 3584

end Sys2Proof.Machine
end

