-- ==== Sys2Proof/Syntax.lean ====
section
/-! DEFINITION. The instructions: one constructor per row of spec/opcode_table.json (R95), in the table's order,
and the answer of the decoder (R102). -/

namespace Sys2Proof

/-- The instruction set (R95). Register fields are register numbers, the others the bits of the field (R91). -/
inductive Instr where
  /-- 00E0 CLS (R131) -/
  | cls
  /-- 00EE RET (R132) -/
  | ret
  /-- 1NNN JP NNN (R133) -/
  | jpNnn (nnn : Addr12)
  /-- 2NNN CALL NNN (R134) -/
  | callNnn (nnn : Addr12)
  /-- 3XNN SE VX, NN (R136) -/
  | seVxNn (x : Reg) (nn : Byte)
  /-- 4XNN SNE VX, NN (R137) -/
  | sneVxNn (x : Reg) (nn : Byte)
  /-- 5XY0 SE VX, VY (R138) -/
  | seVxVy (x y : Reg)
  /-- 6XNN LD VX, NN (R160) -/
  | ldVxNn (x : Reg) (nn : Byte)
  /-- 7XNN ADD VX, NN (R161) -/
  | addVxNn (x : Reg) (nn : Byte)
  /-- 8XY0 LD VX, VY (R171) -/
  | ldVxVy (x y : Reg)
  /-- 8XY1 OR VX, VY (R172) -/
  | orVxVy (x y : Reg)
  /-- 8XY2 AND VX, VY (R173) -/
  | andVxVy (x y : Reg)
  /-- 8XY3 XOR VX, VY (R174) -/
  | xorVxVy (x y : Reg)
  /-- 8XY4 ADD VX, VY (R175) -/
  | addVxVy (x y : Reg)
  /-- 8XY5 SUB VX, VY (R176) -/
  | subVxVy (x y : Reg)
  /-- 8XY6 SHR VX: the Y field "is decoded but not read" (R177) -/
  | shrVx (x y : Reg)
  /-- 8XY7 SUBN VX, VY (R178) -/
  | subnVxVy (x y : Reg)
  /-- 8XYE SHL VX: the Y field "is decoded but not read" (R179) -/
  | shlVx (x y : Reg)
  /-- 9XY0 SNE VX, VY (R139) -/
  | sneVxVy (x y : Reg)
  /-- ANNN LD I, NNN (R201) -/
  | ldINnn (nnn : Addr12)
  /-- BNNN JP V0, NNN (R135) -/
  | jpV0Nnn (nnn : Addr12)
  /-- CXNN RND VX, NN (R231) -/
  | rndVxNn (x : Reg) (nn : Byte)
  /-- DXYN DRW VX, VY, N (R241) -/
  | drwVxVyN (x y : Reg) (n : Nibble)
  /-- EX9E SKP VX (R261) -/
  | skpVx (x : Reg)
  /-- EXA1 SKNP VX (R262) -/
  | sknpVx (x : Reg)
  /-- FX07 LD VX, DT (R280) -/
  | ldVxDt (x : Reg)
  /-- FX0A LD VX, K (R263) -/
  | ldVxK (x : Reg)
  /-- FX15 LD DT, VX (R281) -/
  | ldDtVx (x : Reg)
  /-- FX18 LD ST, VX (R282) -/
  | ldStVx (x : Reg)
  /-- FX1E ADD I, VX, an instruction only when `P_FX1E` (R202) -/
  | addIVx (x : Reg)
  /-- FX29 LD F, VX (R203) -/
  | ldFVx (x : Reg)
  /-- FX33 LD B, VX (R204) -/
  | ldBVx (x : Reg)
  /-- FX55 LD [I], VX (R205) -/
  | ldMemVx (x : Reg)
  /-- FX65 LD VX, [I] (R206) -/
  | ldVxMem (x : Reg)
  deriving DecidableEq, Repr

/-- What decoding a word answers: "a tagged instruction variant" with "an explicit default case for undefined
patterns" (R102). -/
inductive Decoded where
  /-- a row of R95 -/
  | instr (i : Instr)
  /-- `UNDEF(w)`: the word matches no row (R104) -/
  | undef (w : Word)
  deriving DecidableEq, Repr

/-- A row of the opcode map: a word `w` is the instruction when `(w AND mask) = match` (R95). -/
structure OpcodeRow where
  pattern  : Word
  mask     : Word
  mnemonic : String
  deriving DecidableEq, Repr

end Sys2Proof
end

