-- ==== Sys2Proof/Decode.lean ====
section
/-! DEFINITION. Words, their fields, the decoder and the encoder (R90 to R103, R61). -/

namespace Sys2Proof

/-- Two bytes as an instruction word, `hi ++ lo`: "combines them big-endian" (R61). -/
def wordOfBytes (hi lo : Byte) : Word := hi ++ lo

/-- The byte of a word that stands at the lower address (R61). -/
def highByte (w : Word) : Byte := w.extractLsb' 8 8

/-- The byte of a word that stands at the higher address (R61). -/
def lowByte (w : Word) : Byte := w.extractLsb' 0 8

/-! The fields of R91. -/

/-- O, `w[15:12]` -/
def fieldO (w : Word) : Nibble := w.extractLsb' 12 4
/-- X, `w[11:8]`, a register number -/
def fieldX (w : Word) : Reg := (w.extractLsb' 8 4).toFin
/-- Y, `w[7:4]`, a register number -/
def fieldY (w : Word) : Reg := (w.extractLsb' 4 4).toFin
/-- N, `w[3:0]` -/
def fieldN (w : Word) : Nibble := w.extractLsb' 0 4
/-- NN, `w[7:0]` -/
def fieldNN (w : Word) : Byte := w.extractLsb' 0 8
/-- NNN, `w[11:0]` -/
def fieldNNN (w : Word) : Addr12 := w.extractLsb' 0 12

/-- Group 0x0: "Only the two full words 0x00E0 and 0x00EE are defined" (R96). -/
def decodeGroup0 (w : Word) : Decoded :=
  if w = 0x00E0#16 then .instr .cls
  else if w = 0x00EE#16 then .instr .ret
  else .undef w

/-- Group 0x8, selected by the trailing nibble (R97). -/
def decodeGroup8 (w : Word) : Decoded :=
  let x := fieldX w
  let y := fieldY w
  let n := fieldN w
  if n = 0x0#4 then .instr (.ldVxVy x y)
  else if n = 0x1#4 then .instr (.orVxVy x y)
  else if n = 0x2#4 then .instr (.andVxVy x y)
  else if n = 0x3#4 then .instr (.xorVxVy x y)
  else if n = 0x4#4 then .instr (.addVxVy x y)
  else if n = 0x5#4 then .instr (.subVxVy x y)
  else if n = 0x6#4 then .instr (.shrVx x y)
  else if n = 0x7#4 then .instr (.subnVxVy x y)
  else if n = 0xE#4 then .instr (.shlVx x y)
  else .undef w

/-- Group 0xE, selected by the trailing byte (R99). -/
def decodeGroupE (w : Word) : Decoded :=
  let x := fieldX w
  let nn := fieldNN w
  if nn = 0x9E#8 then .instr (.skpVx x)
  else if nn = 0xA1#8 then .instr (.sknpVx x)
  else .undef w

/-- Group 0xF, selected by the trailing byte; 0x1E only when `P_FX1E` (R100). -/
def decodeGroupF (fx1e : Bool) (w : Word) : Decoded :=
  let x := fieldX w
  let nn := fieldNN w
  if nn = 0x07#8 then .instr (.ldVxDt x)
  else if nn = 0x0A#8 then .instr (.ldVxK x)
  else if nn = 0x15#8 then .instr (.ldDtVx x)
  else if nn = 0x18#8 then .instr (.ldStVx x)
  else if nn = 0x1E#8 then (if fx1e then .instr (.addIVx x) else .undef w)
  else if nn = 0x29#8 then .instr (.ldFVx x)
  else if nn = 0x33#8 then .instr (.ldBVx x)
  else if nn = 0x55#8 then .instr (.ldMemVx x)
  else if nn = 0x65#8 then .instr (.ldVxMem x)
  else .undef w

/-- Decode, total on all 65536 words (R102). `fx1e` is the parameter `P_FX1E`. -/
def decode (fx1e : Bool) (w : Word) : Decoded :=
  let o := fieldO w
  if o = 0x0#4 then decodeGroup0 w
  else if o = 0x1#4 then .instr (.jpNnn (fieldNNN w))
  else if o = 0x2#4 then .instr (.callNnn (fieldNNN w))
  else if o = 0x3#4 then .instr (.seVxNn (fieldX w) (fieldNN w))
  else if o = 0x4#4 then .instr (.sneVxNn (fieldX w) (fieldNN w))
  else if o = 0x5#4 then (if fieldN w = 0x0#4 then .instr (.seVxVy (fieldX w) (fieldY w)) else .undef w)
  else if o = 0x6#4 then .instr (.ldVxNn (fieldX w) (fieldNN w))
  else if o = 0x7#4 then .instr (.addVxNn (fieldX w) (fieldNN w))
  else if o = 0x8#4 then decodeGroup8 w
  else if o = 0x9#4 then (if fieldN w = 0x0#4 then .instr (.sneVxVy (fieldX w) (fieldY w)) else .undef w)
  else if o = 0xA#4 then .instr (.ldINnn (fieldNNN w))
  else if o = 0xB#4 then .instr (.jpV0Nnn (fieldNNN w))
  else if o = 0xC#4 then .instr (.rndVxNn (fieldX w) (fieldNN w))
  else if o = 0xD#4 then .instr (.drwVxVyN (fieldX w) (fieldY w) (fieldN w))
  else if o = 0xE#4 then decodeGroupE w
  else decodeGroupF fx1e w   -- the one nibble left, 0xF

/-! The encoder, format by format (R93). -/

/-- The four bits of a register number. -/
def regBits (r : Reg) : Nibble := BitVec.ofFin r

/-- Format FA: `O N N N`. -/
def packA (o : Nibble) (nnn : Addr12) : Word := o ++ nnn

/-- Formats FXK and FXS: `O X N N`, `O X s s`. -/
def packXK (o : Nibble) (x : Reg) (nn : Byte) : Word := (o ++ regBits x) ++ nn

/-- Formats FXY and FXYN: `O X Y s`, `D X Y N`. -/
def packXYN (o : Nibble) (x y : Reg) (n : Nibble) : Word := (o ++ regBits x) ++ (regBits y ++ n)

/-- The word of an instruction (R93, R95). -/
def encode : Instr → Word
  | .cls => 0x00E0#16
  | .ret => 0x00EE#16
  | .jpNnn nnn => packA 0x1#4 nnn
  | .callNnn nnn => packA 0x2#4 nnn
  | .seVxNn x nn => packXK 0x3#4 x nn
  | .sneVxNn x nn => packXK 0x4#4 x nn
  | .seVxVy x y => packXYN 0x5#4 x y 0x0#4
  | .ldVxNn x nn => packXK 0x6#4 x nn
  | .addVxNn x nn => packXK 0x7#4 x nn
  | .ldVxVy x y => packXYN 0x8#4 x y 0x0#4
  | .orVxVy x y => packXYN 0x8#4 x y 0x1#4
  | .andVxVy x y => packXYN 0x8#4 x y 0x2#4
  | .xorVxVy x y => packXYN 0x8#4 x y 0x3#4
  | .addVxVy x y => packXYN 0x8#4 x y 0x4#4
  | .subVxVy x y => packXYN 0x8#4 x y 0x5#4
  | .shrVx x y => packXYN 0x8#4 x y 0x6#4
  | .subnVxVy x y => packXYN 0x8#4 x y 0x7#4
  | .shlVx x y => packXYN 0x8#4 x y 0xE#4
  | .sneVxVy x y => packXYN 0x9#4 x y 0x0#4
  | .ldINnn nnn => packA 0xA#4 nnn
  | .jpV0Nnn nnn => packA 0xB#4 nnn
  | .rndVxNn x nn => packXK 0xC#4 x nn
  | .drwVxVyN x y n => packXYN 0xD#4 x y n
  | .skpVx x => packXK 0xE#4 x 0x9E#8
  | .sknpVx x => packXK 0xE#4 x 0xA1#8
  | .ldVxDt x => packXK 0xF#4 x 0x07#8
  | .ldVxK x => packXK 0xF#4 x 0x0A#8
  | .ldDtVx x => packXK 0xF#4 x 0x15#8
  | .ldStVx x => packXK 0xF#4 x 0x18#8
  | .addIVx x => packXK 0xF#4 x 0x1E#8
  | .ldFVx x => packXK 0xF#4 x 0x29#8
  | .ldBVx x => packXK 0xF#4 x 0x33#8
  | .ldMemVx x => packXK 0xF#4 x 0x55#8
  | .ldVxMem x => packXK 0xF#4 x 0x65#8

/-! The opcode map of R95, written out a second time as match and mask, row by row. -/

/-- Rows 1 to 17 of R95. -/
def opcodeRowsLow : List OpcodeRow :=
  [⟨0x00E0, 0xFFFF, "CLS"⟩, ⟨0x00EE, 0xFFFF, "RET"⟩, ⟨0x1000, 0xF000, "JP_NNN"⟩, ⟨0x2000, 0xF000, "CALL_NNN"⟩,
   ⟨0x3000, 0xF000, "SE_VX__NN"⟩, ⟨0x4000, 0xF000, "SNE_VX__NN"⟩, ⟨0x5000, 0xF00F, "SE_VX__VY"⟩,
   ⟨0x6000, 0xF000, "LD_VX__NN"⟩, ⟨0x7000, 0xF000, "ADD_VX__NN"⟩, ⟨0x8000, 0xF00F, "LD_VX__VY"⟩,
   ⟨0x8001, 0xF00F, "OR_VX__VY"⟩, ⟨0x8002, 0xF00F, "AND_VX__VY"⟩, ⟨0x8003, 0xF00F, "XOR_VX__VY"⟩,
   ⟨0x8004, 0xF00F, "ADD_VX__VY"⟩, ⟨0x8005, 0xF00F, "SUB_VX__VY"⟩, ⟨0x8006, 0xF00F, "SHR_VX"⟩,
   ⟨0x8007, 0xF00F, "SUBN_VX__VY"⟩]

/-- Rows 18 to 34 of R95. -/
def opcodeRowsHigh : List OpcodeRow :=
  [⟨0x800E, 0xF00F, "SHL_VX"⟩, ⟨0x9000, 0xF00F, "SNE_VX__VY"⟩, ⟨0xA000, 0xF000, "LD_I__NNN"⟩,
   ⟨0xB000, 0xF000, "JP_V0__NNN"⟩, ⟨0xC000, 0xF000, "RND_VX__NN"⟩, ⟨0xD000, 0xF000, "DRW_VX__VY__N"⟩,
   ⟨0xE09E, 0xF0FF, "SKP_VX"⟩, ⟨0xE0A1, 0xF0FF, "SKNP_VX"⟩, ⟨0xF007, 0xF0FF, "LD_VX__DT"⟩,
   ⟨0xF00A, 0xF0FF, "LD_VX__K"⟩, ⟨0xF015, 0xF0FF, "LD_DT__VX"⟩, ⟨0xF018, 0xF0FF, "LD_ST__VX"⟩,
   ⟨0xF01E, 0xF0FF, "ADD_I__VX"⟩, ⟨0xF029, 0xF0FF, "LD_F__VX"⟩, ⟨0xF033, 0xF0FF, "LD_B__VX"⟩,
   ⟨0xF055, 0xF0FF, "LD__I___VX"⟩, ⟨0xF065, 0xF0FF, "LD_VX___I"⟩]

/-- The 34 rows of R95 in the table's order. -/
def opcodeRows : List OpcodeRow := opcodeRowsLow ++ opcodeRowsHigh

/-- Whether a word is the instruction of a row: `(w AND mask) = match` (R95). -/
def OpcodeRow.matches (r : OpcodeRow) (w : Word) : Bool := w &&& r.mask == r.pattern

/-- The number of an instruction's row in `opcodeRows` (R95, counted from 0). -/
def rowIndex : Instr → Fin 34
  | .cls => 0
  | .ret => 1
  | .jpNnn _ => 2
  | .callNnn _ => 3
  | .seVxNn _ _ => 4
  | .sneVxNn _ _ => 5
  | .seVxVy _ _ => 6
  | .ldVxNn _ _ => 7
  | .addVxNn _ _ => 8
  | .ldVxVy _ _ => 9
  | .orVxVy _ _ => 10
  | .andVxVy _ _ => 11
  | .xorVxVy _ _ => 12
  | .addVxVy _ _ => 13
  | .subVxVy _ _ => 14
  | .shrVx _ _ => 15
  | .subnVxVy _ _ => 16
  | .shlVx _ _ => 17
  | .sneVxVy _ _ => 18
  | .ldINnn _ => 19
  | .jpV0Nnn _ => 20
  | .rndVxNn _ _ => 21
  | .drwVxVyN _ _ _ => 22
  | .skpVx _ => 23
  | .sknpVx _ => 24
  | .ldVxDt _ => 25
  | .ldVxK _ => 26
  | .ldDtVx _ => 27
  | .ldStVx _ => 28
  | .addIVx _ => 29
  | .ldFVx _ => 30
  | .ldBVx _ => 31
  | .ldMemVx _ => 32
  | .ldVxMem _ => 33

/-- An instruction's row of R95. -/
def opcodeRow (i : Instr) : OpcodeRow := opcodeRows[(rowIndex i).val]'(rowIndex i).isLt

/-- The instruction read from a word numbered as spec/opcode_table.json numbers it. Every instruction is one 16-bit
word (R90), so bits above `nbits` are 0 and a number of more than 16 bits is no instruction. The word is laid out as
two bytes, high byte first, and put together again as fetch does (R61). The parameters are the defaults (R7). -/
def decodeTableWord (nbits w : Nat) : Option Instr :=
  if w % 2 ^ nbits < 65536 then
    let word := BitVec.ofNat 16 (w % 2 ^ nbits)
    match decode Machine.defaultConfig.pFx1e (wordOfBytes (highByte word) (lowByte word)) with
    | .instr i => some i
    | .undef _ => none
  else none

end Sys2Proof
end

