-- ==== Sys2Proof/Machine/State.lean ====
section
/-! DEFINITION. The state of the core (R20), what the host can do (R320), the stops, and the state after reset (R340). -/

namespace Sys2Proof.Machine

/-- Memory: (address, byte) pairs in the canonical form of `Memory.wf` (log 7). -/
abbrev Memory := List Host.Cell

/-- The screen: row `y`, whose bit `x` is cell (x, y), that is `FB[y*64 + x]` (R35, R240; log 6). -/
abbrev Screen := Vector PixelRow 32

/-- The FAULT register's legal values (R37). Its reserved encoding 3 "is never produced". -/
inductive FaultCode where
  /-- code 0: not halted -/
  | none
  /-- code 1: CALL at SP = 16 (R302) -/
  | stackOverflow
  /-- code 2: RET at SP = 0 (R303) -/
  | stackUnderflow
  deriving DecidableEq, Repr

/-- The host's operations that write state between cycles and are no reset and no cycle (R323 to R326). -/
inductive HostEvent where
  /-- `SetKey(k, down)` (R323) -/
  | setKey (k : Nibble) (down : Bool)
  /-- `KeyPressEdge(k)` (R324) -/
  | keyPressEdge (k : Nibble)
  /-- `ClearPending()` (R325) -/
  | clearPending
  /-- `ClearDirty()` (R326) -/
  | clearDirty
  deriving DecidableEq, Repr

/-- What the host does before one cycle, oldest first, and the random byte it gives that cycle (R320, R322). -/
structure CycleInput where
  events : List HostEvent
  rnd    : Byte
  deriving DecidableEq, Repr

/-- One move of the host (R320 to R326, R329). The reads of R327 change nothing and are functions of the state. -/
inductive HostMove where
  /-- `Reset(rom)` (R321) -/
  | reset (rom : List Byte)
  /-- `Cycle(rnd)` (R322) -/
  | cycle (rnd : Byte)
  /-- an operation of R323 to R326 -/
  | event (e : HostEvent)
  deriving DecidableEq, Repr

/-- What a cycle tells the host; "No state depends on it" (R110). -/
inductive CycleOutcome where
  /-- a handler completed -/
  | executed
  /-- FX0A found no key pending -/
  | waiting
  /-- this cycle raised a stack fault -/
  | faulted
  /-- FAULT was already set -/
  | halted
  deriving DecidableEq, Repr

/-- Why a step could stop without a next state: for no reason. "The only synchronous faults are the two stack faults"
(R301), and their entry is a next state with FAULT set (R304; log 5). Nothing raises a value of this type. -/
inductive Fault where
  deriving DecidableEq, Repr

/-- Why the model gives no state. -/
inductive Refusal where
  /-- An instruction without a meaning, raised by its arm of `exec`. Safe: nothing is claimed of it. No arm raises it. -/
  | notModelled (mnemonic : String)
  /-- `LOAD_ERROR`: `State.load` and the host's Reset raise it on a ROM longer than 3584 bytes, where "a load error
  yields no core state" (R341). Safe: the hardware runs no cycle either. No instruction raises it (log 8). -/
  | loadError
  deriving DecidableEq, Repr

/-- The whole state of R20, the parameters of R7 as a constant field (log 1), and the inputs of the cycles as plain
data: the last three fields are the model's own (log 3, log 4). -/
structure State where
  /-- the parameters of R7; nothing writes them -/
  cfg          : Config
  /-- the 4096 bytes of memory (R60) -/
  mem          : Memory
  /-- V0 to VF (R21) -/
  v            : Vector Byte 16
  /-- the index register I (R26) -/
  i            : Word
  /-- the program counter (R24) -/
  pc           : Word
  /-- SP, an integer from 0 to 16 (R27) -/
  sp           : Fin 17
  /-- the return addresses (R28) -/
  stack        : Vector Word 16
  /-- the delay timer (R29) -/
  dt           : Byte
  /-- the sound timer (R30) -/
  st           : Byte
  /-- the key-down flags (R32) -/
  key          : Vector Bool 16
  /-- LAST_KEY (R33) -/
  lastKey      : Nibble
  /-- INPUT_PENDING (R34) -/
  inputPending : Bool
  /-- the framebuffer (R35) -/
  fb           : Screen
  /-- DIRTY (R36) -/
  dirty        : Bool
  /-- FAULT (R37) -/
  fault        : FaultCode
  /-- the instruction register (R38) -/
  ir           : Word
  /-- MODEL: the random byte of the current cycle, an input of the cycle (R110, R230) -/
  rnd          : Byte
  /-- MODEL: how many free random bytes have been drawn -/
  rndIndex     : Nat
  /-- MODEL: what the host does before each of the next cycles, the next one first (R320) -/
  script       : List CycleInput
  deriving DecidableEq, Repr

/-- What a meaning answers. -/
abbrev Result := Host.Outcome State Fault Refusal

/-- `Reset` with an empty ROM under the parameters `c` (R340): memory with nothing listed reads as the font and
zeros. The last three values are the model's (log 3, log 4). -/
def State.resetWith (c : Config) : State :=
  { cfg := c
    mem := []
    v := .replicate 16 0
    i := 0
    pc := resetPc
    sp := 0
    stack := .replicate 16 0
    dt := 0
    st := 0
    key := .replicate 16 false
    lastKey := 0
    inputPending := false
    fb := .replicate 32 0
    dirty := false
    fault := .none
    ir := 0
    rnd := 0
    rndIndex := 0
    script := [] }

/-- The machine right after reset, with the default parameters of R7 and no ROM (R340, R341; log 2, log 10). -/
def State.reset : State := State.resetWith defaultConfig

end Sys2Proof.Machine
end

