-- ==== Sys2Proof/Machine/Operands.lean ====
section
/-! DEFINITION. The operand forms: registers, immediates, addresses, the key index, a run of registers (R92, R200, R260). -/

namespace Sys2Proof.Machine

/-- `V[r]` (R10, R21). -/
def State.getV (s : State) (r : Reg) : Byte := s.v[r.val]

/-- `V[r] <- b` (R10, R21). -/
def State.setV (s : State) (r : Reg) (b : Byte) : State := { s with v := s.v.set r.val b }

/-- `zext_16(NNN)` (R92). -/
def zext16 (nnn : Addr12) : Word := nnn.setWidth 16

/-- The exact integer `I + k`, before memory reduces it (R200). -/
def State.dataAddr (s : State) (k : Nat) : Nat := s.i.toNat + k

/-- `V[x][3:0]`, the key an instruction names (R260). -/
def State.keyIndex (s : State) (x : Reg) : Nibble := (s.getV x).extractLsb' 0 4

/-- `KEY[k]` (R10, R32). -/
def State.keyDown (s : State) (k : Nibble) : Bool := s.key[k.toNat]'k.isLt

/-- `V[0]` to `V[x]`, in order, as FX55 latches them (R205). -/
def State.regsUpTo (s : State) (x : Reg) : List Byte := s.v.toList.take (x.val + 1)

/-- `a / 100`, `(a / 10) mod 10`, `a mod 10` (R204). -/
def bcdDigits (a : Byte) : List Byte :=
  [BitVec.ofNat 8 (a.toNat / 100), BitVec.ofNat 8 (a.toNat / 10 % 10), BitVec.ofNat 8 (a.toNat % 10)]

end Sys2Proof.Machine
end

