-- ==== Sys2Proof/Machine/Flags.lean ====
section
/-! DEFINITION. Every computation of the flag VF (R22, R180) and the order in which it is written (R170). -/

namespace Sys2Proof.Machine

/-- `bool(c)`: 1 if c holds and 0 otherwise (R9). -/
def flagByte (c : Bool) : Byte := if c then 1#8 else 0#8

/-- 8XY4: "1 if the result would exceed 255 before truncation" (R175). -/
def carryFlag (a b : Byte) : Byte := flagByte (255 < a.toNat + b.toNat)

/-- 8XY5 and 8XY7: 1 "if no borrow is needed (minuend ≥ subtrahend)" (R176, R178). -/
def noBorrowFlag (minuend subtrahend : Byte) : Byte := flagByte (subtrahend.toNat ≤ minuend.toNat)

/-- 8XY6: `a[0]`, the bit shifted out (R177). -/
def shrFlag (a : Byte) : Byte := flagByte (a.getLsbD 0)

/-- 8XYE: `a[7]`, the bit shifted out (R179). -/
def shlFlag (a : Byte) : Byte := flagByte (a.getLsbD 7)

/-- DXYN: the collision output (R242). -/
def collisionFlag (collided : Bool) : Byte := flagByte collided

/-- `V[X] <- result`, then `V[0xF] <- flag`, "always the last write" (R170). -/
def State.setResultThenFlag (s : State) (x : Reg) (result flag : Byte) : State :=
  (s.setV x result).setV vF flag

end Sys2Proof.Machine
end

