-- ==== Sys2Proof/Machine/Ops.lean ====
section
/-! DEFINITION. The named operations over memory, the registers, the stack, the screen, the timers and FAULT. -/

namespace Sys2Proof.Machine

/-! ## Memory (R60 to R69) -/

/-- What an address that the memory does not list reads as: its reset contents without a ROM (R40, R63). -/
def unlisted (c : Config) (a : Nat) : Byte := if h : a < 80 then c.pFont[a] else 0#8

/-- The byte listed for an address. -/
def lookupCell : Memory → Nat → Option Byte
  | [], _ => none
  | (k, b) :: m, a => if k = a then some b else lookupCell m a

/-- The list with address `a` holding `b`, in its place. -/
def insertCell : Memory → Nat → Byte → Memory
  | [], a, b => [(a, b)]
  | (k, d) :: m, a, b =>
    if a < k then (a, b) :: (k, d) :: m
    else if a = k then (a, b) :: m
    else (k, d) :: insertCell m a b

/-- The list without address `a`. -/
def eraseCell (m : Memory) (a : Nat) : Memory := m.filter (fun e => e.1 != a)

/-- The byte at an address below 4096 (R68). -/
def loadByte (c : Config) (m : Memory) (a : Nat) : Byte := (lookupCell m a).getD (unlisted c a)

/-- The memory after a byte is stored at an address below 4096; a byte equal to what an unlisted address reads as is
not listed, so that equal memories are equal lists. -/
def storeByte (c : Config) (m : Memory) (a : Nat) (b : Byte) : Memory :=
  if b = unlisted c a then eraseCell m a else insertCell m a b

/-- The addresses rise strictly, starting at `lo` or above. -/
def risingFrom : Nat → Memory → Bool
  | _, [] => true
  | lo, (k, _) :: m => decide (lo ≤ k) && risingFrom (k + 1) m

/-- The canonical form: strictly rising addresses below 4096, none listed with the byte it reads as unlisted. -/
def Memory.wf (c : Config) (m : Memory) : Bool :=
  risingFrom 0 m && m.all (fun e => decide (e.1 < 4096) && e.2 != unlisted c e.1)

/-- `MemRead(a, 1)`: the byte at `a mod 4096` (R11, R62). -/
def State.memRead (s : State) (a : Nat) : Byte := loadByte s.cfg s.mem (a % 4096)

/-- A store at `a mod 4096` that no write protection stops: the loader's own writes (R340). -/
def State.poke (s : State) (a : Nat) (b : Byte) : State :=
  { s with mem := storeByte s.cfg s.mem (a % 4096) b }

/-- `MemWrite(a, 1, b)`: with `P_FONT_WP` a write to 0 to 79 "has no effect and raises no fault" (R11, R62, R64). -/
def State.memWrite (s : State) (a : Nat) (b : Byte) : State :=
  if s.cfg.pFontWp && decide (a % 4096 < 80) then s else s.poke a b

/-- Writes to a, a + 1, a + 2, ... in that order (R69). -/
def State.writeBytes (s : State) (a : Nat) : List Byte → State
  | [] => s
  | b :: bs => (s.memWrite a b).writeBytes (a + 1) bs

/-- The bytes read from a, a + 1, ..., a + n - 1 (R69). -/
def State.readBytes (s : State) (a n : Nat) : List Byte := (List.range n).map (fun k => s.memRead (a + k))

/-- The loader's writes to a, a + 1, ... (R340). -/
def State.pokeBytes (s : State) (a : Nat) : List Byte → State
  | [] => s
  | b :: bs => (s.poke a b).pokeBytes (a + 1) bs

/-- `Fetch(PC)`: the bytes at PC and at `trunc_16(PC + 1)`, the first one high (R61). -/
def State.fetch (s : State) : Word := wordOfBytes (s.memRead s.pc.toNat) (s.memRead (s.pc + 1#16).toNat)

/-- A word laid out where `fetch` will read it, in a core that is not halted (R61, R305). -/
def State.placeWord (s : State) (w : Word) : State :=
  { (s.poke s.pc.toNat (highByte w)).poke (s.pc + 1#16).toNat (lowByte w) with fault := .none }

/-! ## The program counter, I and IR -/

/-- `PC <- target` (R10). -/
def State.setPc (s : State) (target : Word) : State := { s with pc := target }

/-- `PC <- trunc_16(p + 2)`: "advance PC by exactly 2 after acting" (R24). -/
def State.advance (s : State) : State := s.setPc (s.pc + 2#16)

/-- `PC <- trunc_16(p + (if c then 4 else 2))` (R24). -/
def State.skipIf (s : State) (c : Bool) : State := s.setPc (s.pc + if c then 4#16 else 2#16)

/-- `I <- v` (R10, R26). -/
def State.setI (s : State) (v : Word) : State := { s with i := v }

/-- `if P_INC_I then I <- trunc_16(i + X + 1)` (R205, R206). -/
def State.postIncrementI (s : State) (x : Reg) : State :=
  if s.cfg.pIncI then s.setI (s.i + BitVec.ofNat 16 (x.val + 1)) else s

/-- `IR <- w` (R38, R110). -/
def State.setIr (s : State) (w : Word) : State := { s with ir := w }

/-- V0 to VX read from memory at I, I + 1, ..., the other registers as they are (R206). -/
def State.loadedRegs (s : State) (x : Reg) : Vector Byte 16 :=
  Vector.ofFn (fun r => if r.val ≤ x.val then s.memRead (s.dataAddr r.val) else s.getV r)

/-- `for k in 0..X: V[k] <- MemRead(I + k, 1)` (R206). -/
def State.loadRegs (s : State) (x : Reg) : State := { s with v := s.loadedRegs x }

/-! ## Taking a stack fault (R304)

The one exception of this machine. Nothing saves a pc or a status: "FAULT is set to the fault's code, and nothing else
changes", PC itself keeps the faulting address, "there is no vector table and no trap handler", and "No trap-return
instruction exists" (R306): only Reset leaves the halted state (R343). -/

/-- `raise f` (R12, R304). -/
def State.raiseFault (s : State) (f : FaultCode) : State := { s with fault := f }

/-! ## The call stack (R27, R28) -/

/-- CALL's part: at SP = 16 the overflow fault, otherwise `STACK[SP] <- PC`, SP one more, PC the target (R134). -/
def State.callTo (s : State) (target : Word) : State :=
  if h : s.sp.val < 16 then
    { s with stack := s.stack.set s.sp.val s.pc, sp := ⟨s.sp.val + 1, by omega⟩, pc := target }
  else s.raiseFault .stackOverflow

/-- RET's part: at SP = 0 the underflow fault, otherwise SP one less and PC the popped entry plus 2. The entry "is not
cleared" (R132). -/
def State.returnFromCall (s : State) : State :=
  if h : s.sp.val = 0 then s.raiseFault .stackUnderflow
  else
    { s with
      sp := ⟨s.sp.val - 1, by omega⟩
      pc := s.stack[s.sp.val - 1]'(by omega) + 2#16 }

/-! ## The timers (R29 to R31, R283) -/

/-- `DT <- v`. -/
def State.setDt (s : State) (v : Byte) : State := { s with dt := v }

/-- `ST <- v`. -/
def State.setSt (s : State) (v : Byte) : State := { s with st := v }

/-- `if t > 0 then t - 1`: a counter that saturates at zero (R31). -/
def countDown (t : Byte) : Byte := if t = 0#8 then 0#8 else t - 1#8

/-- The end-of-cycle timer step (R283). -/
def State.tickTimers (s : State) : State := (s.setDt (countDown s.dt)).setSt (countDown s.st)

/-! ## The screen (R35, R240) -/

/-- Cell (x, y), "with both coordinates wrapped modulo 64 and 32" (R240, R241). -/
def cellAt (fb : Screen) (x y : Nat) : Bool := (fb[y % 32]'(Nat.mod_lt y (by decide))).getLsbD (x % 64)

/-- `FB[k]` with `k = y*64 + x` (R10, R35). -/
def State.fbCell (s : State) (k : Nat) : Bool := cellAt s.fb (k % 64) (k / 64)

/-- The screen with cell (x, y) flipped (R241). -/
def flipCell (fb : Screen) (x y : Nat) : Screen :=
  fb.set (y % 32) (fb[y % 32]'(Nat.mod_lt y (by decide)) ^^^ BitVec.twoPow 64 (x % 64)) (Nat.mod_lt y (by decide))

/-- Column `c` of sprite row `row`, "most-significant bit leftmost" (R240). -/
def spriteBit (row : Byte) (c : Nat) : Bool := row.getLsbD (7 - c)

/-- One pixel of the draw: a set sprite bit collects the collision, then flips its cell (R241, R242). -/
def drawPixel (ox y : Nat) (row : Byte) (acc : Screen × Bool) (c : Nat) : Screen × Bool :=
  if spriteBit row c then (flipCell acc.1 (ox + c) y, acc.2 || cellAt acc.1 (ox + c) y) else acc

/-- The eight columns of one sprite row, in order (R241). -/
def drawRow (ox y : Nat) (row : Byte) (acc : Screen × Bool) : Screen × Bool :=
  (List.range 8).foldl (drawPixel ox y row) acc

/-- The rows of a sprite, the first at height `y` (R241). -/
def drawRows (ox y : Nat) : List Byte → Screen × Bool → Screen × Bool
  | [], acc => acc
  | row :: rows, acc => drawRows ox (y + 1) rows (drawRow ox y row acc)

/-- A framebuffer write and `DIRTY <- 1` (R131, R244). -/
def State.setScreen (s : State) (fb : Screen) : State := { s with fb := fb, dirty := true }

end Sys2Proof.Machine
end

