-- ==== Sys2Proof/Machine/Arithmetic.lean ====
section
/-! DEFINITION. The arithmetic group 8XYN (R170 to R180). Operands are read before any write (R106). -/

namespace Sys2Proof.Machine

/-- 8XY0 LD VX, VY (R171). -/
def execLdVxVy (x y : Reg) (s : State) : Result := .next (s.setV x (s.getV y)).advance

/-- 8XY1 OR VX, VY; VF is not written implicitly (R172). -/
def execOrVxVy (x y : Reg) (s : State) : Result := .next (s.setV x (s.getV x ||| s.getV y)).advance

/-- 8XY2 AND VX, VY; VF is not written implicitly (R173). -/
def execAndVxVy (x y : Reg) (s : State) : Result := .next (s.setV x (s.getV x &&& s.getV y)).advance

/-- 8XY3 XOR VX, VY; VF is not written implicitly (R174). -/
def execXorVxVy (x y : Reg) (s : State) : Result := .next (s.setV x (s.getV x ^^^ s.getV y)).advance

/-- 8XY4 ADD VX, VY (R175). -/
def execAddVxVy (x y : Reg) (s : State) : Result :=
  .next (s.setResultThenFlag x (s.getV x + s.getV y) (carryFlag (s.getV x) (s.getV y))).advance

/-- 8XY5 SUB VX, VY: VX := VX - VY (R176). -/
def execSubVxVy (x y : Reg) (s : State) : Result :=
  .next (s.setResultThenFlag x (s.getV x - s.getV y) (noBorrowFlag (s.getV x) (s.getV y))).advance

/-- 8XY6 SHR VX; the Y field "is decoded but not read" (R177). -/
def execShrVx (x _y : Reg) (s : State) : Result :=
  .next (s.setResultThenFlag x (s.getV x >>> 1) (shrFlag (s.getV x))).advance

/-- 8XY7 SUBN VX, VY: VX := VY - VX (R178). -/
def execSubnVxVy (x y : Reg) (s : State) : Result :=
  .next (s.setResultThenFlag x (s.getV y - s.getV x) (noBorrowFlag (s.getV y) (s.getV x))).advance

/-- 8XYE SHL VX; the Y field "is decoded but not read" (R179). -/
def execShlVx (x _y : Reg) (s : State) : Result :=
  .next (s.setResultThenFlag x (s.getV x <<< 1) (shlFlag (s.getV x))).advance

end Sys2Proof.Machine
end

