-- ==== Sys2Proof/Machine/ControlFlow.lean ====
section
/-! DEFINITION. Control flow and skips (R130 to R139), and the undefined opcodes (R104). -/

namespace Sys2Proof.Machine

/-- 00E0 CLS (R131). -/
def execCls (s : State) : Result := .next (s.setScreen (.replicate 32 0)).advance

/-- 00EE RET (R132). -/
def execRet (s : State) : Result := .next s.returnFromCall

/-- 1NNN JP NNN (R133). -/
def execJpNnn (nnn : Addr12) (s : State) : Result := .next (s.setPc (zext16 nnn))

/-- 2NNN CALL NNN (R134). -/
def execCallNnn (nnn : Addr12) (s : State) : Result := .next (s.callTo (zext16 nnn))

/-- BNNN JP V0, NNN: "V0 is always the register used, whatever bits 11:8 hold" (R135). -/
def execJpV0Nnn (nnn : Addr12) (s : State) : Result := .next (s.setPc (zext16 nnn + (s.getV 0).setWidth 16))

/-- 3XNN SE VX, NN (R136). -/
def execSeVxNn (x : Reg) (nn : Byte) (s : State) : Result := .next (s.skipIf (s.getV x == nn))

/-- 4XNN SNE VX, NN (R137). -/
def execSneVxNn (x : Reg) (nn : Byte) (s : State) : Result := .next (s.skipIf (s.getV x != nn))

/-- 5XY0 SE VX, VY (R138). -/
def execSeVxVy (x y : Reg) (s : State) : Result := .next (s.skipIf (s.getV x == s.getV y))

/-- 9XY0 SNE VX, VY (R139). -/
def execSneVxVy (x y : Reg) (s : State) : Result := .next (s.skipIf (s.getV x != s.getV y))

/-- `UNDEF(w)`: a no-op that advances PC by the instruction width (R104). -/
def execUndef (s : State) : Result := .next s.advance

end Sys2Proof.Machine
end

