-- ==== Sys2Proof/Machine/Graphics.lean ====
section
/-! DEFINITION. The draw instruction (R241 to R244). -/

namespace Sys2Proof.Machine

/-- The screen and the collision output of a draw of `n` rows from (VX, VY), the rows read from I on (R241, R242). -/
def State.drawSprite (s : State) (x y : Reg) (n : Nibble) : Screen × Bool :=
  drawRows (s.getV x).toNat (s.getV y).toNat (s.readBytes (s.dataAddr 0) n.toNat) (s.fb, false)

/-- DXYN DRW VX, VY, N. VF is written once, at the end: the zero before the draw "is never observable" (R242). DIRTY
is set "unconditionally" (R244). -/
def execDrwVxVyN (x y : Reg) (n : Nibble) (s : State) : Result :=
  .next ((s.setScreen (s.drawSprite x y n).1).setV vF (collisionFlag (s.drawSprite x y n).2)).advance

end Sys2Proof.Machine
end

