-- ==== Sys2Proof/Machine/Immediate.lean ====
section
/-! DEFINITION. Immediate and assignment instructions (R160, R161). -/

namespace Sys2Proof.Machine

/-- 6XNN LD VX, NN (R160). -/
def execLdVxNn (x : Reg) (nn : Byte) (s : State) : Result := .next (s.setV x nn).advance

/-- 7XNN ADD VX, NN, "no flag effect" (R161). -/
def execAddVxNn (x : Reg) (nn : Byte) (s : State) : Result := .next (s.setV x (s.getV x + nn)).advance

end Sys2Proof.Machine
end

