-- ==== Sys2Proof/Machine/IndexMemory.lean ====
section
/-! DEFINITION. The index register and memory transfers (R200 to R206). -/

namespace Sys2Proof.Machine

/-- ANNN LD I, NNN (R201). -/
def execLdINnn (nnn : Addr12) (s : State) : Result := .next (s.setI (zext16 nnn)).advance

/-- FX1E ADD I, VX; VF is not written (R202). The decoder gives it only when `P_FX1E` (R100). -/
def execAddIVx (x : Reg) (s : State) : Result := .next (s.setI (s.i + (s.getV x).setWidth 16)).advance

/-- FX29 LD F, VX: "the full 8-bit value is multiplied, not its low nibble" (R203). -/
def execLdFVx (x : Reg) (s : State) : Result := .next (s.setI (BitVec.ofNat 16 ((s.getV x).toNat * 5))).advance

/-- FX33 LD B, VX: hundreds, tens, units at I, I + 1, I + 2 (R204). -/
def execLdBVx (x : Reg) (s : State) : Result :=
  .next (s.writeBytes (s.dataAddr 0) (bcdDigits (s.getV x))).advance

/-- FX55 LD [I], VX: V0 to VX to memory from I, then I moves on under `P_INC_I` (R205). -/
def execLdMemVx (x : Reg) (s : State) : Result :=
  .next ((s.writeBytes (s.dataAddr 0) (s.regsUpTo x)).postIncrementI x).advance

/-- FX65 LD VX, [I]: memory from I to V0 to VX, then I moves on under `P_INC_I` (R206). -/
def execLdVxMem (x : Reg) (s : State) : Result := .next ((s.loadRegs x).postIncrementI x).advance

end Sys2Proof.Machine
end

