-- ==== Sys2Proof/Machine/Keypad.lean ====
section
/-! DEFINITION. Keypad instructions (R260 to R263). -/

namespace Sys2Proof.Machine

/-- EX9E SKP VX (R261). -/
def execSkpVx (x : Reg) (s : State) : Result := .next (s.skipIf (s.keyDown (s.keyIndex x)))

/-- EXA1 SKNP VX (R262). -/
def execSknpVx (x : Reg) (s : State) : Result := .next (s.skipIf (!s.keyDown (s.keyIndex x)))

/-- FX0A LD VX, K: with a key pending `V[X] <- zext_8(LAST_KEY)`, else nothing changes and the same word is fetched
again; the handler clears no input flag (R263). -/
def execLdVxK (x : Reg) (s : State) : Result :=
  .next (if s.inputPending then (s.setV x (s.lastKey.setWidth 8)).advance else s)

end Sys2Proof.Machine
end

