-- ==== Sys2Proof/Machine/Random.lean ====
section
/-! DEFINITION. The random-number instruction (R230, R231). -/

namespace Sys2Proof.Machine

/-- CXNN RND VX, NN: `V[X] <- rnd AND NN`, `rnd` the byte of this cycle (R231). -/
def execRndVxNn (x : Reg) (nn : Byte) (s : State) : Result := .next (s.setV x (s.rnd &&& nn)).advance

end Sys2Proof.Machine
end

