-- ==== Sys2Proof/Machine/Timers.lean ====
section
/-! DEFINITION. Timer instructions (R280 to R282); the end-of-cycle step follows them in the cycle. -/

namespace Sys2Proof.Machine

/-- FX07 LD VX, DT: "the value before this cycle's decrement" (R280). -/
def execLdVxDt (x : Reg) (s : State) : Result := .next (s.setV x s.dt).advance

/-- FX15 LD DT, VX (R281). -/
def execLdDtVx (x : Reg) (s : State) : Result := .next (s.setDt (s.getV x)).advance

/-- FX18 LD ST, VX (R282). -/
def execLdStVx (x : Reg) (s : State) : Result := .next (s.setSt (s.getV x)).advance

end Sys2Proof.Machine
end

