-- ==== Sys2Proof/Machine/HostEvents.lean ====
section
/-! DEFINITION. What the host does between two cycles: events, the input of a cycle, the reads (R320 to R327). -/

namespace Sys2Proof.Machine

/-- One event (R323 to R326). -/
def State.perform (s : State) : HostEvent → State
  | .setKey k down => { s with key := s.key.set k.toNat down k.isLt }
  | .keyPressEdge k => { s with lastKey := k, inputPending := true }
  | .clearPending => { s with inputPending := false }
  | .clearDirty => { s with dirty := false }

/-- Events in their order; the last press wins (R324). -/
def State.performAll (s : State) : List HostEvent → State
  | [] => s
  | e :: es => (s.perform e).performAll es

/-- The inputs of the next cycle taken from the script: its events happen and its random byte is latched. Where the
script gives none, no event happens and the random byte is a fresh free value (R230, R320; log 3, log 4). -/
def State.takeInput (s : State) : State :=
  match s.script with
  | [] => { s with rnd := Config.freeRandomByte s.rndIndex, rndIndex := s.rndIndex + 1 }
  | c :: cs => { s.performAll c.events with rnd := c.rnd, script := cs }

/-- `ReadFramebuffer()`: the 2048 cells in the order of `index = y*64 + x` (R327). -/
def State.readFramebuffer (s : State) : List Bool := (List.range 2048).map s.fbCell

/-- `ReadDirty()` (R327). -/
def State.readDirty (s : State) : Bool := s.dirty

/-- `ReadTimers()`: DT and ST (R327). -/
def State.readTimers (s : State) : Byte × Byte := (s.dt, s.st)

/-- The 2-bit code of a FAULT value (R37). -/
def FaultCode.code : FaultCode → BitVec 2
  | .none => 0#2
  | .stackOverflow => 1#2
  | .stackUnderflow => 2#2

/-- `ReadFault()` (R327). -/
def State.readFault (s : State) : BitVec 2 := s.fault.code

end Sys2Proof.Machine
end

