-- ==== Sys2Proof/Machine/Cycle.lean ====
section
/-! DEFINITION. The cycle (R110): halted check, fetch, decode, one handler, timer step. -/

namespace Sys2Proof.Machine

/-- The handler of what was decoded: exactly one (R102, R104, R107). -/
def runDecoded (d : Decoded) (s : State) : Result :=
  match d with
  | .instr i => exec i s
  | .undef _ => execUndef s

/-- After the handler: the timer step, skipped when the handler raised a fault (R283, R304). -/
def endOfCycle (s : State) : State := if s.fault = .none then s.tickTimers else s

/-- A meaning's answer followed by the end of the cycle. -/
def Result.finish : Result → Result
  | .next s => .next (endOfCycle s)
  | .fault f => .fault f
  | .refused r => .refused r

/-- One cycle, `s.rnd` being its random byte (R110). While FAULT is set it "changes nothing" (R305). -/
def runCycle (s : State) : Result :=
  if s.fault = .none then
    let s1 := s.setIr s.fetch
    Result.finish (runDecoded (decode s1.cfg.pFx1e s1.ir) s1)
  else .next s

/-- The word at PC is FX0A and no key is pending (R263). -/
def State.waitsForKey (s : State) : Bool :=
  match decode s.cfg.pFx1e s.fetch with
  | .instr (.ldVxK _) => !s.inputPending
  | _ => false

/-- What a cycle from `before` to `after` tells the host (R110; log 5). -/
def cycleOutcome (before after : State) : CycleOutcome :=
  if before.fault ≠ .none then .halted
  else if after.fault ≠ .none then .faulted
  else if before.waitsForKey then .waiting
  else .executed

end Sys2Proof.Machine
end

