-- ==== Sys2Proof/Machine/Step.lean ====
section
/-! DEFINITION. One step: what the host does before the cycle, then the cycle (R110, R320). -/

namespace Sys2Proof.Machine

/-- The inputs of the cycle, then `Cycle(rnd)` (R110). -/
def step (s : State) : Host.Outcome State Fault Refusal := runCycle s.takeInput

/-- The state with an instruction word stored where the next step fetches it. The word's bits above `nbits` are 0. The
store is the loader's (no write protection), and FAULT is cleared, since a halted core fetches nothing (R305; log 10). -/
def State.withFetchWord (s : State) (nbits w : Nat) : State := s.placeWord (BitVec.ofNat 16 (w % 2 ^ nbits))

end Sys2Proof.Machine
end

