-- ==== Sys2Proof/Machine/HostMoves.lean ====
section
/-! DEFINITION. The host's moves: Reset with a ROM, one cycle with a random byte, the events (R320 to R326, R340, R341). -/

namespace Sys2Proof.Machine

/-- `Reset(rom)` from nothing, under the parameters `c` (R340): a ROM of more than 3584 bytes is a load error (R341). -/
def State.load (c : Config) (rom : List Byte) : Result :=
  if maxRomLength < rom.length then .refused .loadError
  else .next ((State.resetWith c).pokeBytes loadAddress rom)

/-- `Reset(rom)` as a move in a run. It "keeps nothing from before the reset" (R340); the parameters are fixed for the
run (R20), and the host's script and the count of free bytes drawn are the host's side, not the core's (log 3, log 4). -/
def State.hostReset (s : State) (rom : List Byte) : Result :=
  match State.load s.cfg rom with
  | .next t => .next { t with rndIndex := s.rndIndex, script := s.script }
  | .fault f => .fault f
  | .refused r => .refused r

/-- `Cycle(rnd)` with its outcome (R110, R322). -/
def State.hostCycle (s : State) (rnd : Byte) : Host.Outcome (State × CycleOutcome) Fault Refusal :=
  match runCycle { s with rnd := rnd } with
  | .next t => .next (t, cycleOutcome s t)
  | .fault f => .fault f
  | .refused r => .refused r

/-- One move of the host; there is no other (R329). -/
def State.move (s : State) : HostMove → Result
  | .reset rom => s.hostReset rom
  | .cycle rnd => runCycle { s with rnd := rnd }
  | .event e => .next (s.perform e)

/-- A run: moves in any order (R320). -/
def State.moves (s : State) : List HostMove → Result
  | [] => .next s
  | m :: ms =>
    match s.move m with
    | .next t => t.moves ms
    | .fault f => .fault f
    | .refused r => .refused r

end Sys2Proof.Machine
end

