-- ==== Sys2Proof/Safety.lean ====
section
/-! DEFINITION. The terms the claims are stated in: what two states share, the frame of an instruction, the encoding
of a row, the cells of a sprite, and the invariant of a run. -/

namespace Sys2Proof.Machine

/-- The parts of State that a claim says are changed or not. -/
inductive Part where
  | cfg | mem | v | i | pc | callStack | dt | st | keypad | fb | dirty | fault | ir | cycleInput
  deriving DecidableEq, Repr

/-- A part is the same in two states. Memory, registers and cells are compared by reading every one of them. -/
def Part.same : Part → State → State → Prop
  | .cfg, s, t => t.cfg = s.cfg
  | .mem, s, t => ∀ a, t.memRead a = s.memRead a
  | .v, s, t => ∀ r, t.getV r = s.getV r
  | .i, s, t => t.i = s.i
  | .pc, s, t => t.pc = s.pc
  | .callStack, s, t => t.sp = s.sp ∧ t.stack = s.stack
  | .dt, s, t => t.dt = s.dt
  | .st, s, t => t.st = s.st
  | .keypad, s, t => t.key = s.key ∧ t.lastKey = s.lastKey ∧ t.inputPending = s.inputPending
  | .fb, s, t => ∀ k, t.fbCell k = s.fbCell k
  | .dirty, s, t => t.dirty = s.dirty
  | .fault, s, t => t.fault = s.fault
  | .ir, s, t => t.ir = s.ir
  | .cycleInput, s, t => t.rnd = s.rnd ∧ t.rndIndex = s.rndIndex ∧ t.script = s.script

/-- Every part but those listed is the same in `t` as in `s`. -/
def UnchangedExcept (parts : List Part) (s t : State) : Prop := ∀ p, p ∉ parts → p.same s t

/-- Every register but those of `p` is the same in `t` as in `s`. -/
def RegsUnchangedExcept (p : Reg → Prop) (s t : State) : Prop := ∀ r, ¬ p r → t.getV r = s.getV r

/-- `t.PC` is `s.PC + n` modulo 2^16 (R25). -/
def PcAdvancedBy (n : Nat) (s t : State) : Prop := t.pc.toNat = (s.pc.toNat + n) % 65536

/-- A row of R95 under every setting of `P_FX1E`: each word with `(w AND mask) = pattern` decodes to `i w`. -/
def EncodedBy (mask pattern : Word) (i : Word → Instr) : Prop :=
  ∀ fx1e w, w &&& mask = pattern → decode fx1e w = .instr (i w)

/-- The registers an instruction can write, the table of R23. -/
def writesReg (r : Reg) : Instr → Bool
  | .cls => false
  | .ret => false
  | .jpNnn _ => false
  | .callNnn _ => false
  | .seVxNn _ _ => false
  | .sneVxNn _ _ => false
  | .seVxVy _ _ => false
  | .ldVxNn x _ => r = x
  | .addVxNn x _ => r = x
  | .ldVxVy x _ => r = x
  | .orVxVy x _ => r = x
  | .andVxVy x _ => r = x
  | .xorVxVy x _ => r = x
  | .addVxVy x _ => r = x || r = vF
  | .subVxVy x _ => r = x || r = vF
  | .shrVx x _ => r = x || r = vF
  | .subnVxVy x _ => r = x || r = vF
  | .shlVx x _ => r = x || r = vF
  | .sneVxVy _ _ => false
  | .ldINnn _ => false
  | .jpV0Nnn _ => false
  | .rndVxNn x _ => r = x
  | .drwVxVyN _ _ _ => r = vF
  | .skpVx _ => false
  | .sknpVx _ => false
  | .ldVxDt x => r = x
  | .ldVxK x => r = x
  | .ldDtVx _ => false
  | .ldStVx _ => false
  | .addIVx _ => false
  | .ldFVx _ => false
  | .ldBVx _ => false
  | .ldMemVx _ => false
  | .ldVxMem x => r.val ≤ x.val

/-- How far down from the origin row a cell row lies, going round modulo 32 (R241). -/
def rowOffset (oy cy : Nat) : Nat := (cy + (32 - oy % 32)) % 32

/-- How far right of the origin column a cell column lies, going round modulo 64 (R241). -/
def colOffset (ox cx : Nat) : Nat := (cx + (64 - ox % 64)) % 64

/-- A draw of `n` rows at (VX, VY) with the sprite at I has a set bit on cell (cx, cy) (R240, R241). -/
def spriteCovers (s : State) (x y : Reg) (n : Nibble) (cx cy : Nat) : Bool :=
  decide (rowOffset (s.getV y).toNat cy < n.toNat) && decide (colOffset (s.getV x).toNat cx < 8) &&
    (s.memRead (s.i.toNat + rowOffset (s.getV y).toNat cy)).getLsbD (7 - colOffset (s.getV x).toNat cx)

/-- What a set FAULT says of the state: the word at PC, still in memory and in IR, is the CALL or RET that faulted, and
SP has the value it faulted on (R302, R303, R304). -/
def FaultRecorded (s : State) : Prop :=
  match s.fault with
  | .none => True
  | .stackOverflow => s.sp.val = 16 ∧ fieldO s.ir = 0x2#4 ∧ s.fetch = s.ir
  | .stackUnderflow => s.sp.val = 0 ∧ s.ir = 0x00EE#16 ∧ s.fetch = s.ir

/-- The invariant of every run: memory keeps its canonical form (every listed address is below 4096) and a halted core
keeps the cause of its fault. The bounds of R44 hold by the types of State. -/
def State.Inv (s : State) : Prop := Memory.wf s.cfg s.mem = true ∧ FaultRecorded s

end Sys2Proof.Machine
end

