-- ==== Sys2Proof/Certificates/Slice0/Obligations.lean ====
section
/-! DEFINITION. The statements, in the order of OBLIGATIONS.json. Each docstring names the rules of spec/ it states. -/

open Sys2Proof Sys2Proof.Machine

/-! ## Reset, load, memory -/

/-- R340, R43, R40: what `Reset` with an empty ROM leaves, for every setting of the parameters. The values of DIRTY,
LAST_KEY, INPUT_PENDING, FAULT and IR are the spec's own decisions (D13, D22, D24). -/
def Obligations.ResetLeavesEveryPartAsSpecified : Prop :=
  ∀ c : Config,
    let s := State.resetWith c
    s.cfg = c ∧ s.pc.toNat = 0x200 ∧ (∀ r, s.getV r = 0#8) ∧ s.i = 0#16 ∧ s.sp.val = 0 ∧
    (∀ k : Fin 16, s.stack[k] = 0#16) ∧ s.dt = 0#8 ∧ s.st = 0#8 ∧ (∀ k, s.keyDown k = false) ∧ s.lastKey = 0#4 ∧
    s.inputPending = false ∧ (∀ k, s.fbCell k = false) ∧ s.dirty = false ∧ s.fault = .none ∧ s.ir = 0#16 ∧
    (∀ a (h : a < 80), s.memRead a = c.pFont[a]) ∧ (∀ a, 80 ≤ a → a < 4096 → s.memRead a = 0#8)

/-- R40: memory after `Reset(rom)`: the font, zeros, the ROM from 0x200, zeros. -/
def Obligations.LoadPlacesFontAndRom : Prop :=
  ∀ (c : Config) (rom : List Byte), rom.length ≤ 3584 →
    ∃ t, State.load c rom = .next t ∧ UnchangedExcept [.mem] (State.resetWith c) t ∧
      (∀ a (h : a < 80), t.memRead a = c.pFont[a]) ∧
      (∀ a, 80 ≤ a → a < 0x200 → t.memRead a = 0#8) ∧
      (∀ j (h : j < rom.length), t.memRead (0x200 + j) = rom[j]) ∧
      (∀ a, 0x200 + rom.length ≤ a → a < 4096 → t.memRead a = 0#8)

/-- R341 (D26): a longer ROM is a load error and yields no state. -/
def Obligations.OversizedRomIsALoadError : Prop :=
  ∀ (c : Config) (rom : List Byte), 3584 < rom.length → State.load c rom = .refused .loadError

/-- R62, R64, R68 (D10, D19): a byte read is the last byte written there, addresses being taken modulo 4096; with
`P_FONT_WP` a write to 0 to 79 has no effect; a write changes nothing but that byte. -/
def Obligations.MemoryReadsTheLastWrite : Prop :=
  ∀ (s : State) (a b : Nat) (v : Byte),
    (s.memWrite a v).memRead b =
        (if b % 4096 = a % 4096 ∧ ¬ (s.cfg.pFontWp = true ∧ a % 4096 < 80) then v else s.memRead b) ∧
      UnchangedExcept [.mem] s (s.memWrite a v)

/-- R61, R73 (D24): fetch is two byte reads at PC and `trunc_16(PC + 1)`, the byte at the lower address high, and it sees
what was written there last. -/
def Obligations.FetchIsBigEndian : Prop :=
  ∀ s : State, s.fetch.toNat = 256 * (s.memRead s.pc.toNat).toNat + (s.memRead ((s.pc.toNat + 1) % 65536)).toNat ∧
    ∀ hi lo : Byte, s.cfg.pFontWp = false →
      ((s.memWrite s.pc.toNat hi).memWrite ((s.pc.toNat + 1) % 65536) lo).fetch.toNat = 256 * hi.toNat + lo.toNat

/-! ## Encoding -/

/-- R95, R102 (D1, D2): decoding the word of a well-formed instruction gives it back, every operand at every value. -/
def Obligations.DecodeOfEncodeIsTheInstruction : Prop :=
  ∀ (c : Config) (i : Instr), i.wellFormed c = true → decode c.pFx1e (encode i) = .instr i

/-- R102 (D1, D2): a word that decodes to an instruction is that instruction's word, and the instruction is well formed. -/
def Obligations.EncodeOfDecodeIsTheWord : Prop :=
  ∀ (c : Config) (w : Word) (i : Instr), decode c.pFx1e w = .instr i → encode i = w ∧ i.wellFormed c = true

/-- R95 to R101 (D1, D2, D4): a word decodes to an instruction exactly when it matches a row of the opcode map (the row
of FX1E only when `P_FX1E`, and otherwise `UNDEF(w)`), the row is that instruction's, no word matches two rows, and every
other word is `UNDEF(w)`. -/
def Obligations.DecodeAgreesWithTheOpcodeMap : Prop :=
  ∀ (c : Config) (w : Word),
    (∀ i, decode c.pFx1e w = .instr i → (opcodeRow i).matches w = true) ∧
    (∀ n (h : n < opcodeRows.length), (opcodeRows[n]).matches w = true →
      (n = 29 ∧ c.pFx1e = false ∧ decode c.pFx1e w = .undef w) ∨
        ∃ i, decode c.pFx1e w = .instr i ∧ (rowIndex i).val = n) ∧
    (∀ m n (hm : m < opcodeRows.length) (hn : n < opcodeRows.length),
      (opcodeRows[m]).matches w = true → (opcodeRows[n]).matches w = true → m = n) ∧
    ((∀ i, decode c.pFx1e w ≠ .instr i) → decode c.pFx1e w = .undef w)

/-- R93, R95 (D1): words written out from the encodings, at least one of every family, decode to the instructions they
stand for, and words of no row to `UNDEF` (a sanity statement). The last three clauses rest on the spec's decisions D4
(0xF21E without `P_FX1E`), D2 (0x5121) and D3 (0x0123); log 9. -/
def Obligations.SampleWordsDecode : Prop :=
  decode true 0x00EE#16 = .instr .ret ∧ decode true 0x2ABC#16 = .instr (.callNnn 0xABC#12) ∧
  decode true 0x6A9C#16 = .instr (.ldVxNn 10 0x9C#8) ∧ decode true 0x8F14#16 = .instr (.addVxVy 15 1) ∧
  decode true 0x80F4#16 = .instr (.addVxVy 0 15) ∧ decode true 0xC30F#16 = .instr (.rndVxNn 3 0x0F#8) ∧
  decode true 0xD125#16 = .instr (.drwVxVyN 1 2 5#4) ∧ decode true 0xE59E#16 = .instr (.skpVx 5) ∧
  decode true 0xF20A#16 = .instr (.ldVxK 2) ∧ decode true 0xF107#16 = .instr (.ldVxDt 1) ∧
  decode true 0xF155#16 = .instr (.ldMemVx 1) ∧
  decode true 0xF21E#16 = .instr (.addIVx 2) ∧ decode false 0xF21E#16 = .undef 0xF21E#16 ∧
  decode true 0x5121#16 = .undef 0x5121#16 ∧ decode true 0x0123#16 = .undef 0x0123#16

/-! ## The step -/

/-- R110, R320 (D13, D21, D24): when the core is not halted and the word at PC decodes to `i`, the step takes the cycle's
inputs, loads IR and runs `i`; then each nonzero timer falls by one, unless `i` raised a fault. The inputs are the next
entry of the script, its events in order, and the random byte; with no entry only the random byte is drawn. They touch
only the keypad, DIRTY and the model's own fields (log 3, log 4). -/
def Obligations.StepRunsTheDecodedInstruction : Prop :=
  ∀ (s : State) (i : Instr), s.fault = .none → decode s.cfg.pFx1e s.fetch = .instr i →
    UnchangedExcept [.keypad, .dirty, .cycleInput] s s.takeInput ∧
    (s.script = [] → UnchangedExcept [.cycleInput] s s.takeInput) ∧
    (∀ c cs, s.script = c :: cs → s.takeInput = { c.events.foldl State.perform s with rnd := c.rnd, script := cs }) ∧
    ∀ t, exec i { s.takeInput with ir := s.fetch } = .next t →
      step s = .next (if t.fault = .none then
        { t with dt := BitVec.ofNat 8 (t.dt.toNat - 1), st := BitVec.ofNat 8 (t.st.toNat - 1) } else t)

/-- R104: a word that matches no row is a no-op: PC advances by 2, the timers count, nothing else changes (beyond what the
host's inputs of the cycle change), but that IR holds the word: that clause is R38 and R110, the spec's decision D24
(log 9). -/
def Obligations.UndefinedWordIsANoOp : Prop :=
  ∀ (s : State) (w : Word), s.fault = .none → decode s.cfg.pFx1e s.fetch = .undef w →
    ∃ t, step s = .next t ∧ PcAdvancedBy 2 s t ∧ t.ir = s.fetch ∧ t.dt.toNat = s.dt.toNat - 1 ∧
      t.st.toNat = s.st.toNat - 1 ∧ UnchangedExcept [.pc, .ir, .dt, .st] s.takeInput t

/-- R105, R301 (D10, D13): from every state the step answers a next state: no word halts the run, no instruction is
refused and no access faults. -/
def Obligations.EveryStepAnswersANextState : Prop :=
  ∀ s : State, ∃ t, step s = .next t

/-- R283 (D13, D14): a cycle that is not halted and raises no fault ends with each timer one less, down to zero: the
timer's value before the cycle, or VX's where the instruction writes that timer; a faulting cycle leaves both. -/
def Obligations.TimersCountOncePerCycle : Prop :=
  ∀ s : State, s.fault = .none →
    ∃ t, step s = .next t ∧
      (t.fault = .none →
        ((∀ x, decode s.cfg.pFx1e s.fetch ≠ .instr (.ldDtVx x)) → t.dt.toNat = s.dt.toNat - 1) ∧
        (∀ x, decode s.cfg.pFx1e s.fetch = .instr (.ldDtVx x) → t.dt.toNat = (s.getV x).toNat - 1) ∧
        ((∀ x, decode s.cfg.pFx1e s.fetch ≠ .instr (.ldStVx x)) → t.st.toNat = s.st.toNat - 1) ∧
        (∀ x, decode s.cfg.pFx1e s.fetch = .instr (.ldStVx x) → t.st.toNat = (s.getV x).toNat - 1)) ∧
      (t.fault ≠ .none → t.dt = s.dt ∧ t.st = s.st)

/-- R305 (D14): while FAULT is set a cycle changes nothing (the step still takes the host's inputs) and tells the host
HALTED. -/
def Obligations.HaltedCycleChangesNothing : Prop :=
  ∀ s : State, s.fault ≠ .none →
    step s = .next s.takeInput ∧ ∀ rnd, s.hostCycle rnd = .next ({ s with rnd := rnd }, .halted)

/-- R302, R304 (D13): a cycle that fetches a CALL at SP = 16 sets FAULT to STACK_OVERFLOW (code 1) and IR to the word, and
changes nothing else; neither timer counts. -/
def Obligations.StackOverflowEntryIsPrecise : Prop :=
  ∀ (s : State) (nnn : Addr12), s.fault = .none → s.sp.val = 16 → decode s.cfg.pFx1e s.fetch = .instr (.callNnn nnn) →
    ∃ t, step s = .next t ∧ t.fault = .stackOverflow ∧ t.readFault = 1#2 ∧ t.ir = s.fetch ∧
      UnchangedExcept [.fault, .ir] s.takeInput t

/-- R303, R304 (D13): a cycle that fetches a RET at SP = 0 sets FAULT to STACK_UNDERFLOW (code 2) and IR to the word, and
changes nothing else; neither timer counts. -/
def Obligations.StackUnderflowEntryIsPrecise : Prop :=
  ∀ s : State, s.fault = .none → s.sp.val = 0 → decode s.cfg.pFx1e s.fetch = .instr .ret →
    ∃ t, step s = .next t ∧ t.fault = .stackUnderflow ∧ t.readFault = 2#2 ∧ t.ir = s.fetch ∧
      UnchangedExcept [.fault, .ir] s.takeInput t

/-- R110, R322 (D13, D14): what `Cycle(rnd)` tells the host, in every state. -/
def Obligations.CycleOutcomeSaysWhatHappened : Prop :=
  ∀ (s : State) (rnd : Byte), ∃ t o, s.hostCycle rnd = .next (t, o) ∧
    (o = .halted ↔ s.fault ≠ .none) ∧
    (o = .faulted ↔ s.fault = .none ∧ t.fault ≠ .none) ∧
    (o = .waiting ↔
      s.fault = .none ∧ s.inputPending = false ∧ ∃ x, decode s.cfg.pFx1e s.fetch = .instr (.ldVxK x)) ∧
    (o = .waiting → t.pc = s.pc)

/-! ## The invariant -/

/-- R304, R340: the state after every successful `Reset(rom)` meets the invariant, `State.reset` among them. The clause of
`State.Inv` on memory's canonical form is no rule of the spec: it is the model's choice of log 7. -/
def Obligations.EveryLoadedStateMeetsTheInvariant : Prop :=
  State.reset.Inv ∧ ∀ (c : Config) (rom : List Byte) (t : State), State.load c rom = .next t → t.Inv

/-- R302 to R305 (D13, D14): every step keeps the invariant: a halted core keeps the record of its fault, and memory stays
canonical. The clause on memory's canonical form is no rule of the spec: it is the model's choice of log 7. -/
def Obligations.StepKeepsTheInvariant : Prop :=
  ∀ s t : State, s.Inv → step s = .next t → t.Inv

/-- R320, R329 (D21): every move of the host that answers a state keeps the invariant, so every state of every run that
begins with a reset meets it. The clause of `State.Inv` on memory's canonical form is the model's choice of log 7. -/
def Obligations.HostMovesKeepTheInvariant : Prop :=
  ∀ (s t : State) (ms : List HostMove), s.Inv → s.moves ms = .next t → t.Inv

/-! ## Control flow -/

/-- R131. -/
def Obligations.ClsClearsTheScreen : Prop :=
  EncodedBy 0xFFFF#16 0x00E0#16 (fun _ => .cls) ∧
  ∀ s : State, ∃ t, exec .cls s = .next t ∧ (∀ k, k < 2048 → t.fbCell k = false) ∧ t.dirty = true ∧
    PcAdvancedBy 2 s t ∧ UnchangedExcept [.fb, .dirty, .pc] s t

/-- R132 (D25): RET with SP above 0. -/
def Obligations.RetResumesAfterTheCall : Prop :=
  EncodedBy 0xFFFF#16 0x00EE#16 (fun _ => .ret) ∧
  ∀ (s : State) (h : 0 < s.sp.val), ∃ t, exec .ret s = .next t ∧ t.sp.val = s.sp.val - 1 ∧
    t.pc.toNat = ((s.stack[s.sp.val - 1]'(by omega)).toNat + 2) % 65536 ∧ t.stack = s.stack ∧
    UnchangedExcept [.pc, .callStack] s t

/-- R132, R303, R304 (D13): RET with SP = 0 takes the underflow fault. -/
def Obligations.RetOnAnEmptyStackFaults : Prop :=
  ∀ s : State, s.sp.val = 0 →
    ∃ t, exec .ret s = .next t ∧ t.fault = .stackUnderflow ∧ UnchangedExcept [.fault] s t

/-- R133. -/
def Obligations.JpSetsPcToNnn : Prop :=
  EncodedBy 0xF000#16 0x1000#16 (fun w => .jpNnn (fieldNNN w)) ∧
  ∀ (nnn : Addr12) (s : State), ∃ t, exec (.jpNnn nnn) s = .next t ∧ t.pc.toNat = nnn.toNat ∧
    UnchangedExcept [.pc] s t

/-- R134 (D13): CALL with SP below 16 pushes its own address. -/
def Obligations.CallPushesItsOwnAddress : Prop :=
  EncodedBy 0xF000#16 0x2000#16 (fun w => .callNnn (fieldNNN w)) ∧
  ∀ (nnn : Addr12) (s : State) (h : s.sp.val < 16), ∃ t, exec (.callNnn nnn) s = .next t ∧
    t.stack[s.sp.val] = s.pc ∧ (∀ k (hk : k < 16), k ≠ s.sp.val → t.stack[k] = s.stack[k]) ∧
    t.sp.val = s.sp.val + 1 ∧ t.pc.toNat = nnn.toNat ∧ UnchangedExcept [.pc, .callStack] s t

/-- R134, R302, R304 (D13): CALL with SP = 16 takes the overflow fault. -/
def Obligations.CallOnAFullStackFaults : Prop :=
  ∀ (nnn : Addr12) (s : State), s.sp.val = 16 →
    ∃ t, exec (.callNnn nnn) s = .next t ∧ t.fault = .stackOverflow ∧ UnchangedExcept [.fault] s t

/-- R141 (derived in the spec from R132 and R134): a RET at the depth a CALL left, with that entry unchanged, resumes
after the CALL and gives SP back. -/
def Obligations.CallThenRetRoundTrips : Prop :=
  ∀ (nnn : Addr12) (s s1 s2 : State) (h : s.sp.val < 16), exec (.callNnn nnn) s = .next s1 →
    s2.sp = s1.sp → s2.stack[s.sp.val] = s1.stack[s.sp.val] →
    ∃ t, exec .ret s2 = .next t ∧ PcAdvancedBy 2 s t ∧ t.sp = s.sp

/-- R135 (D11): "PC := NNN + register[0]". -/
def Obligations.JpV0AddsRegisterZero : Prop :=
  EncodedBy 0xF000#16 0xB000#16 (fun w => .jpV0Nnn (fieldNNN w)) ∧
  ∀ (nnn : Addr12) (s : State), ∃ t, exec (.jpV0Nnn nnn) s = .next t ∧
    t.pc.toNat = nnn.toNat + (s.getV 0).toNat ∧ UnchangedExcept [.pc] s t

/-- R136, R137. -/
def Obligations.ImmediateSkips : Prop :=
  EncodedBy 0xF000#16 0x3000#16 (fun w => .seVxNn (fieldX w) (fieldNN w)) ∧
  EncodedBy 0xF000#16 0x4000#16 (fun w => .sneVxNn (fieldX w) (fieldNN w)) ∧
  ∀ (x : Reg) (nn : Byte) (s : State),
    (∃ t, exec (.seVxNn x nn) s = .next t ∧ PcAdvancedBy (if s.getV x = nn then 4 else 2) s t ∧
      UnchangedExcept [.pc] s t) ∧
    (∃ t, exec (.sneVxNn x nn) s = .next t ∧ PcAdvancedBy (if s.getV x = nn then 2 else 4) s t ∧
      UnchangedExcept [.pc] s t)

/-- R138, R139 (D2). -/
def Obligations.RegisterSkips : Prop :=
  EncodedBy 0xF00F#16 0x5000#16 (fun w => .seVxVy (fieldX w) (fieldY w)) ∧
  EncodedBy 0xF00F#16 0x9000#16 (fun w => .sneVxVy (fieldX w) (fieldY w)) ∧
  ∀ (x y : Reg) (s : State),
    (∃ t, exec (.seVxVy x y) s = .next t ∧ PcAdvancedBy (if s.getV x = s.getV y then 4 else 2) s t ∧
      UnchangedExcept [.pc] s t) ∧
    (∃ t, exec (.sneVxVy x y) s = .next t ∧ PcAdvancedBy (if s.getV x = s.getV y then 2 else 4) s t ∧
      UnchangedExcept [.pc] s t)

/-! ## Immediate and arithmetic -/

/-- R160. -/
def Obligations.LoadImmediateSetsTheRegister : Prop :=
  EncodedBy 0xF000#16 0x6000#16 (fun w => .ldVxNn (fieldX w) (fieldNN w)) ∧
  ∀ (x : Reg) (nn : Byte) (s : State), ∃ t, exec (.ldVxNn x nn) s = .next t ∧ t.getV x = nn ∧
    RegsUnchangedExcept (· = x) s t ∧ PcAdvancedBy 2 s t ∧ UnchangedExcept [.v, .pc] s t

/-- R161: the sum wraps and VF is written only where X is F. -/
def Obligations.AddImmediateWrapsWithoutFlag : Prop :=
  EncodedBy 0xF000#16 0x7000#16 (fun w => .addVxNn (fieldX w) (fieldNN w)) ∧
  ∀ (x : Reg) (nn : Byte) (s : State), ∃ t, exec (.addVxNn x nn) s = .next t ∧
    (t.getV x).toNat = ((s.getV x).toNat + nn.toNat) % 256 ∧
    RegsUnchangedExcept (· = x) s t ∧ PcAdvancedBy 2 s t ∧ UnchangedExcept [.v, .pc] s t

/-- R171. -/
def Obligations.LoadRegisterCopies : Prop :=
  EncodedBy 0xF00F#16 0x8000#16 (fun w => .ldVxVy (fieldX w) (fieldY w)) ∧
  ∀ (x y : Reg) (s : State), ∃ t, exec (.ldVxVy x y) s = .next t ∧ t.getV x = s.getV y ∧
    RegsUnchangedExcept (· = x) s t ∧ PcAdvancedBy 2 s t ∧ UnchangedExcept [.v, .pc] s t

/-- R172, R173, R174 (D8): bit by bit; VF is not written implicitly. -/
def Obligations.LogicOpsLeaveTheFlag : Prop :=
  EncodedBy 0xF00F#16 0x8001#16 (fun w => .orVxVy (fieldX w) (fieldY w)) ∧
  EncodedBy 0xF00F#16 0x8002#16 (fun w => .andVxVy (fieldX w) (fieldY w)) ∧
  EncodedBy 0xF00F#16 0x8003#16 (fun w => .xorVxVy (fieldX w) (fieldY w)) ∧
  ∀ (x y : Reg) (s : State),
    (∃ t, exec (.orVxVy x y) s = .next t ∧
      (∀ k, (t.getV x).getLsbD k = ((s.getV x).getLsbD k || (s.getV y).getLsbD k)) ∧
      RegsUnchangedExcept (· = x) s t ∧ PcAdvancedBy 2 s t ∧ UnchangedExcept [.v, .pc] s t) ∧
    (∃ t, exec (.andVxVy x y) s = .next t ∧
      (∀ k, (t.getV x).getLsbD k = ((s.getV x).getLsbD k && (s.getV y).getLsbD k)) ∧
      RegsUnchangedExcept (· = x) s t ∧ PcAdvancedBy 2 s t ∧ UnchangedExcept [.v, .pc] s t) ∧
    (∃ t, exec (.xorVxVy x y) s = .next t ∧
      (∀ k, (t.getV x).getLsbD k = ((s.getV x).getLsbD k ^^ (s.getV y).getLsbD k)) ∧
      RegsUnchangedExcept (· = x) s t ∧ PcAdvancedBy 2 s t ∧ UnchangedExcept [.v, .pc] s t)

/-- R175: VX the sum modulo 256, VF last, 1 exactly when the sum exceeds 255. -/
def Obligations.AddSetsCarryLast : Prop :=
  EncodedBy 0xF00F#16 0x8004#16 (fun w => .addVxVy (fieldX w) (fieldY w)) ∧
  ∀ (x y : Reg) (s : State), ∃ t, exec (.addVxVy x y) s = .next t ∧
    (t.getV vF).toNat = (if 255 < (s.getV x).toNat + (s.getV y).toNat then 1 else 0) ∧
    (x ≠ vF → (t.getV x).toNat = ((s.getV x).toNat + (s.getV y).toNat) % 256) ∧
    RegsUnchangedExcept (fun r => r = x ∨ r = vF) s t ∧ PcAdvancedBy 2 s t ∧ UnchangedExcept [.v, .pc] s t

/-- R176, R178: VX the difference modulo 256, VF last, 1 exactly when no borrow is needed. -/
def Obligations.SubtractionsSetNoBorrowLast : Prop :=
  EncodedBy 0xF00F#16 0x8005#16 (fun w => .subVxVy (fieldX w) (fieldY w)) ∧
  EncodedBy 0xF00F#16 0x8007#16 (fun w => .subnVxVy (fieldX w) (fieldY w)) ∧
  ∀ (x y : Reg) (s : State),
    (∃ t, exec (.subVxVy x y) s = .next t ∧
      (t.getV vF).toNat = (if (s.getV y).toNat ≤ (s.getV x).toNat then 1 else 0) ∧
      (x ≠ vF → (t.getV x).toNat = ((s.getV x).toNat + 256 - (s.getV y).toNat) % 256) ∧
      RegsUnchangedExcept (fun r => r = x ∨ r = vF) s t ∧ PcAdvancedBy 2 s t ∧ UnchangedExcept [.v, .pc] s t) ∧
    (∃ t, exec (.subnVxVy x y) s = .next t ∧
      (t.getV vF).toNat = (if (s.getV x).toNat ≤ (s.getV y).toNat then 1 else 0) ∧
      (x ≠ vF → (t.getV x).toNat = ((s.getV y).toNat + 256 - (s.getV x).toNat) % 256) ∧
      RegsUnchangedExcept (fun r => r = x ∨ r = vF) s t ∧ PcAdvancedBy 2 s t ∧ UnchangedExcept [.v, .pc] s t)

/-- R177, R179 (D5, D7): VX is shifted in place, the Y field is not read, VF last is the bit shifted out. -/
def Obligations.ShiftsSetTheBitShiftedOut : Prop :=
  EncodedBy 0xF00F#16 0x8006#16 (fun w => .shrVx (fieldX w) (fieldY w)) ∧
  EncodedBy 0xF00F#16 0x800E#16 (fun w => .shlVx (fieldX w) (fieldY w)) ∧
  ∀ (x y : Reg) (s : State),
    (∃ t, exec (.shrVx x y) s = .next t ∧ (t.getV vF).toNat = (s.getV x).toNat % 2 ∧
      (x ≠ vF → (t.getV x).toNat = (s.getV x).toNat / 2) ∧
      RegsUnchangedExcept (fun r => r = x ∨ r = vF) s t ∧ PcAdvancedBy 2 s t ∧ UnchangedExcept [.v, .pc] s t) ∧
    (∃ t, exec (.shlVx x y) s = .next t ∧ (t.getV vF).toNat = (s.getV x).toNat / 128 ∧
      (x ≠ vF → (t.getV x).toNat = (s.getV x).toNat * 2 % 256) ∧
      RegsUnchangedExcept (fun r => r = x ∨ r = vF) s t ∧ PcAdvancedBy 2 s t ∧ UnchangedExcept [.v, .pc] s t)

/-! ## Index register, memory transfers, random -/

/-- R201. -/
def Obligations.LoadIndexSetsI : Prop :=
  EncodedBy 0xF000#16 0xA000#16 (fun w => .ldINnn (fieldNNN w)) ∧
  ∀ (nnn : Addr12) (s : State), ∃ t, exec (.ldINnn nnn) s = .next t ∧ t.i.toNat = nnn.toNat ∧
    PcAdvancedBy 2 s t ∧ UnchangedExcept [.i, .pc] s t

/-- R202, R100 (D4): `I <- trunc_16(I + VX)`, no flag; an instruction exactly when `P_FX1E`. -/
def Obligations.AddIndexWrapsWithoutFlag : Prop :=
  (∀ w : Word, w &&& 0xF0FF#16 = 0xF01E#16 →
    decode true w = .instr (.addIVx (fieldX w)) ∧ decode false w = .undef w) ∧
  ∀ (x : Reg) (s : State), ∃ t, exec (.addIVx x) s = .next t ∧
    t.i.toNat = (s.i.toNat + (s.getV x).toNat) % 65536 ∧ PcAdvancedBy 2 s t ∧ UnchangedExcept [.i, .pc] s t

/-- R203, R42: I becomes VX × 5, the full 8-bit value; glyph d of the font stands at 5·d in memory after a reset. -/
def Obligations.FontAddressIsFiveTimesVx : Prop :=
  EncodedBy 0xF0FF#16 0xF029#16 (fun w => .ldFVx (fieldX w)) ∧
  (∀ (x : Reg) (s : State), ∃ t, exec (.ldFVx x) s = .next t ∧ t.i.toNat = (s.getV x).toNat * 5 ∧
    PcAdvancedBy 2 s t ∧ UnchangedExcept [.i, .pc] s t) ∧
  ∀ (c : Config) (d k : Nat) (hd : d < 16) (hk : k < 5),
    (State.resetWith c).memRead (5 * d + k) = c.pFont[5 * d + k]

/-- R204 with R62, R64 (D10, D19): the three decimal digits at I, I + 1, I + 2, each address modulo 4096; with
`P_FONT_WP` a digit whose address lies in 0 to 79 is not stored; every other byte reads as before. -/
def Obligations.BcdStoresThreeDigits : Prop :=
  EncodedBy 0xF0FF#16 0xF033#16 (fun w => .ldBVx (fieldX w)) ∧
  ∀ (x : Reg) (s : State), ∃ t, exec (.ldBVx x) s = .next t ∧
    (∀ k, k < 3 → ¬ (s.cfg.pFontWp = true ∧ s.dataAddr k % 4096 < 80) →
      (t.memRead (s.dataAddr k)).toNat =
        (if k = 0 then (s.getV x).toNat / 100 else if k = 1 then (s.getV x).toNat / 10 % 10
          else (s.getV x).toNat % 10)) ∧
    (∀ a, ((∀ k, k < 3 → a % 4096 ≠ s.dataAddr k % 4096) ∨ (s.cfg.pFontWp = true ∧ a % 4096 < 80)) →
      t.memRead a = s.memRead a) ∧
    PcAdvancedBy 2 s t ∧ UnchangedExcept [.mem, .pc] s t

/-- R205 with R62, R64 (D9, D10, D19): V0 to VX at I, I + 1, ..., I + X; I then moves on by X + 1 when `P_INC_I`; every
other byte reads as before. -/
def Obligations.RegisterDumpStoresV0ToVx : Prop :=
  EncodedBy 0xF0FF#16 0xF055#16 (fun w => .ldMemVx (fieldX w)) ∧
  ∀ (x : Reg) (s : State), ∃ t, exec (.ldMemVx x) s = .next t ∧
    (∀ k : Reg, k.val ≤ x.val → ¬ (s.cfg.pFontWp = true ∧ s.dataAddr k.val % 4096 < 80) →
      t.memRead (s.dataAddr k.val) = s.getV k) ∧
    (∀ a, ((∀ k, k ≤ x.val → a % 4096 ≠ s.dataAddr k % 4096) ∨ (s.cfg.pFontWp = true ∧ a % 4096 < 80)) →
      t.memRead a = s.memRead a) ∧
    t.i.toNat = (if s.cfg.pIncI then (s.i.toNat + x.val + 1) % 65536 else s.i.toNat) ∧
    PcAdvancedBy 2 s t ∧ UnchangedExcept [.mem, .i, .pc] s t

/-- R206 with R62 (D9, D10): memory from I on into V0 to VX, VF among them when X is F; I then moves on by X + 1 when
`P_INC_I`; no byte of memory changes. -/
def Obligations.RegisterLoadReadsV0ToVx : Prop :=
  EncodedBy 0xF0FF#16 0xF065#16 (fun w => .ldVxMem (fieldX w)) ∧
  ∀ (x : Reg) (s : State), ∃ t, exec (.ldVxMem x) s = .next t ∧
    (∀ r : Reg, t.getV r = if r.val ≤ x.val then s.memRead (s.dataAddr r.val) else s.getV r) ∧
    t.i.toNat = (if s.cfg.pIncI then (s.i.toNat + x.val + 1) % 65536 else s.i.toNat) ∧
    PcAdvancedBy 2 s t ∧ UnchangedExcept [.v, .i, .pc] s t

/-- R231: `V[X] <- rnd AND NN` for every random byte of the cycle. -/
def Obligations.RandomByteIsMasked : Prop :=
  EncodedBy 0xF000#16 0xC000#16 (fun w => .rndVxNn (fieldX w) (fieldNN w)) ∧
  ∀ (x : Reg) (nn rnd : Byte) (s : State), ∃ t, exec (.rndVxNn x nn) { s with rnd := rnd } = .next t ∧
    (∀ k, (t.getV x).getLsbD k = (rnd.getLsbD k && nn.getLsbD k)) ∧
    RegsUnchangedExcept (· = x) s t ∧ PcAdvancedBy 2 s t ∧ UnchangedExcept [.v, .pc] { s with rnd := rnd } t

/-! ## Graphics -/

/-- R241, R242, R244 (D6, D10, D17, D20): cell by cell, a draw flips exactly the cells a set sprite bit covers, with both
coordinates wrapped; VF is 1 exactly when such a cell was 1 before, else 0; DIRTY is set; X or Y = F uses the old VF. -/
def Obligations.DrawFlipsExactlyTheCoveredCells : Prop :=
  EncodedBy 0xF000#16 0xD000#16 (fun w => .drwVxVyN (fieldX w) (fieldY w) (fieldN w)) ∧
  ∀ (x y : Reg) (n : Nibble) (s : State), ∃ t, exec (.drwVxVyN x y n) s = .next t ∧
    (∀ cx cy, cx < 64 → cy < 32 →
      t.fbCell (cy * 64 + cx) = (s.fbCell (cy * 64 + cx) ^^ spriteCovers s x y n cx cy)) ∧
    ((∃ cx cy, cx < 64 ∧ cy < 32 ∧ spriteCovers s x y n cx cy = true ∧ s.fbCell (cy * 64 + cx) = true) →
      t.getV vF = 1#8) ∧
    ((∀ cx cy, cx < 64 → cy < 32 → spriteCovers s x y n cx cy = true → s.fbCell (cy * 64 + cx) = false) →
      t.getV vF = 0#8) ∧
    t.dirty = true ∧ RegsUnchangedExcept (· = vF) s t ∧ PcAdvancedBy 2 s t ∧
    UnchangedExcept [.fb, .dirty, .v, .pc] s t

/-- R241 and the source's worked example (derived): drawing the same sprite at the same place twice, VF not being an
origin register, gives the screen back. -/
def Obligations.DrawingTwiceRestoresTheScreen : Prop :=
  ∀ (x y : Reg) (n : Nibble) (s s1 : State), x ≠ vF → y ≠ vF → exec (.drwVxVyN x y n) s = .next s1 →
    ∃ t, exec (.drwVxVyN x y n) s1 = .next t ∧ t.fb = s.fb

/-! ## Keypad and timers -/

/-- R260, R261, R262 (D15): the key is the low nibble of VX. -/
def Obligations.KeySkips : Prop :=
  EncodedBy 0xF0FF#16 0xE09E#16 (fun w => .skpVx (fieldX w)) ∧
  EncodedBy 0xF0FF#16 0xE0A1#16 (fun w => .sknpVx (fieldX w)) ∧
  ∀ (x : Reg) (k : Nibble) (s : State), k.toNat = (s.getV x).toNat % 16 →
    (∃ t, exec (.skpVx x) s = .next t ∧ PcAdvancedBy (if s.keyDown k then 4 else 2) s t ∧
      UnchangedExcept [.pc] s t) ∧
    (∃ t, exec (.sknpVx x) s = .next t ∧ PcAdvancedBy (if s.keyDown k then 2 else 4) s t ∧
      UnchangedExcept [.pc] s t)

/-- R263 (D16): with a key pending VX becomes LAST_KEY and PC advances; otherwise nothing changes, PC included. The
handler clears no input flag. -/
def Obligations.KeyWaitTakesThePendingKey : Prop :=
  EncodedBy 0xF0FF#16 0xF00A#16 (fun w => .ldVxK (fieldX w)) ∧
  ∀ (x : Reg) (s : State),
    (s.inputPending = true →
      ∃ t, exec (.ldVxK x) s = .next t ∧ (t.getV x).toNat = s.lastKey.toNat ∧
        RegsUnchangedExcept (· = x) s t ∧ PcAdvancedBy 2 s t ∧ UnchangedExcept [.v, .pc] s t) ∧
    (s.inputPending = false → ∃ t, exec (.ldVxK x) s = .next t ∧ UnchangedExcept [] s t)

/-- R280: VX is DT "before this cycle's decrement", and the cycle's end then takes one off DT. -/
def Obligations.ReadDelayTimer : Prop :=
  EncodedBy 0xF0FF#16 0xF007#16 (fun w => .ldVxDt (fieldX w)) ∧
  (∀ (x : Reg) (s : State), ∃ t, exec (.ldVxDt x) s = .next t ∧ t.getV x = s.dt ∧
    RegsUnchangedExcept (· = x) s t ∧ PcAdvancedBy 2 s t ∧ UnchangedExcept [.v, .pc] s t) ∧
  ∀ (x : Reg) (s : State), s.fault = .none → decode s.cfg.pFx1e s.fetch = .instr (.ldVxDt x) →
    ∃ t, step s = .next t ∧ t.getV x = s.dt ∧ t.dt.toNat = s.dt.toNat - 1

/-- R281 (derived in part from R283): DT becomes VX; after the whole cycle it is one less, down to zero. -/
def Obligations.WriteDelayTimer : Prop :=
  EncodedBy 0xF0FF#16 0xF015#16 (fun w => .ldDtVx (fieldX w)) ∧
  (∀ (x : Reg) (s : State), ∃ t, exec (.ldDtVx x) s = .next t ∧ t.dt = s.getV x ∧ PcAdvancedBy 2 s t ∧
    UnchangedExcept [.dt, .pc] s t) ∧
  ∀ (x : Reg) (s : State), s.fault = .none → decode s.cfg.pFx1e s.fetch = .instr (.ldDtVx x) →
    ∃ t, step s = .next t ∧ t.dt.toNat = (s.getV x).toNat - 1

/-- R282: ST becomes VX; after the whole cycle it is one less, down to zero. -/
def Obligations.WriteSoundTimer : Prop :=
  EncodedBy 0xF0FF#16 0xF018#16 (fun w => .ldStVx (fieldX w)) ∧
  (∀ (x : Reg) (s : State), ∃ t, exec (.ldStVx x) s = .next t ∧ t.st = s.getV x ∧ PcAdvancedBy 2 s t ∧
    UnchangedExcept [.st, .pc] s t) ∧
  ∀ (x : Reg) (s : State), s.fault = .none → decode s.cfg.pFx1e s.fetch = .instr (.ldStVx x) →
    ∃ t, step s = .next t ∧ t.st.toNat = (s.getV x).toNat - 1

/-! ## Rules about all instructions -/

/-- R22, R23 (D7, D8): an instruction changes only the registers its row of R23 names; in particular VF only where the
rule names it. -/
def Obligations.OnlyNamedRegistersAreWritten : Prop :=
  ∀ (i : Instr) (s t : State) (r : Reg), exec i s = .next t → writesReg r i = false → t.getV r = s.getV r

/-- R60, R204, R205: the only instructions that change a byte of memory are FX33 and FX55, and only bytes they address. -/
def Obligations.OnlyTwoInstructionsWriteMemory : Prop :=
  ∀ (i : Instr) (s t : State) (a : Nat), exec i s = .next t → t.memRead a ≠ s.memRead a →
    (∃ x, i = .ldBVx x ∧ ∃ k, k < 3 ∧ a % 4096 = s.dataAddr k % 4096) ∨
    (∃ x, i = .ldMemVx x ∧ ∃ k, k ≤ x.val ∧ a % 4096 = s.dataAddr k % 4096)

/-- R37, R307 (D13): "Only the two stack faults write it": an instruction changes FAULT only as CALL at SP = 16 or RET at
SP = 0, and then changes nothing else. -/
def Obligations.OnlyStackFaultsWriteFault : Prop :=
  ∀ (i : Instr) (s t : State), exec i s = .next t → t.fault ≠ s.fault →
    ((∃ nnn, i = .callNnn nnn) ∧ s.sp.val = 16 ∧ t = { s with fault := .stackOverflow }) ∨
    (i = .ret ∧ s.sp.val = 0 ∧ t = { s with fault := .stackUnderflow })

/-- R32, R33, R34, R20 (D16): no instruction writes the keypad, LAST_KEY or INPUT_PENDING, the parameters, IR, or the
cycle's inputs. -/
def Obligations.InstructionsLeaveTheHostsState : Prop :=
  ∀ (i : Instr) (s t : State), exec i s = .next t →
    Part.keypad.same s t ∧ Part.cfg.same s t ∧ Part.ir.same s t ∧ Part.cycleInput.same s t

/-- R36, R131, R244, R326 (D20): DIRTY after an instruction is 1 if it is a clear or a draw, else as before; only the
host's ClearDirty takes it to 0, and that changes nothing else. -/
def Obligations.DirtyIsSetByDrawsAndClearedByTheHost : Prop :=
  (∀ (i : Instr) (s t : State), exec i s = .next t →
    t.dirty = (s.dirty || match i with | .cls | .drwVxVyN _ _ _ => true | _ => false)) ∧
  ∀ s : State, (s.perform .clearDirty).dirty = false ∧ UnchangedExcept [.dirty] s (s.perform .clearDirty)

/-- R30, R36, R38, R230 (D20, D23, D24): ST, DIRTY and IR are read by no instruction, and the random byte by none but
CXNN: replacing them before an instruction (the random byte only before another instruction than CXNN) changes nothing
else after it. -/
def Obligations.UnreadStateDoesNotInfluence : Prop :=
  ∀ (i : Instr) (s : State) (st' : Byte) (dirty' : Bool) (ir' : Word) (rnd' : Byte),
    (∀ x nn, i = .rndVxNn x nn → rnd' = s.rnd) →
    ∃ t, exec i s = .next t ∧ ∃ st2 dirty2,
      exec i { s with st := st', dirty := dirty', ir := ir', rnd := rnd' } =
        .next { t with st := st2, dirty := dirty2, ir := ir', rnd := rnd' }

/-! ## The host's moves -/

/-- R323, R324, R325: SetKey, KeyPressEdge and ClearPending write exactly what the rules say; the last press wins. -/
def Obligations.HostKeyEvents : Prop :=
  ∀ (s : State) (k : Nibble) (down : Bool),
    ((∀ k', (s.perform (.setKey k down)).keyDown k' = if k' = k then down else s.keyDown k') ∧
      (s.perform (.setKey k down)).lastKey = s.lastKey ∧
      (s.perform (.setKey k down)).inputPending = s.inputPending ∧
      UnchangedExcept [.keypad] s (s.perform (.setKey k down))) ∧
    ((s.perform (.keyPressEdge k)).lastKey = k ∧ (s.perform (.keyPressEdge k)).inputPending = true ∧
      (s.perform (.keyPressEdge k)).key = s.key ∧ UnchangedExcept [.keypad] s (s.perform (.keyPressEdge k)) ∧
      ∀ k', (s.perform (.keyPressEdge k')).perform (.keyPressEdge k) = s.perform (.keyPressEdge k)) ∧
    ((s.perform .clearPending).inputPending = false ∧ (s.perform .clearPending).lastKey = s.lastKey ∧
      (s.perform .clearPending).key = s.key ∧ UnchangedExcept [.keypad] s (s.perform .clearPending))

/-- R305, R343 (D14): from a halted state the only move that clears FAULT is a reset; every other move leaves everything
but the host's own state as it is. -/
def Obligations.OnlyResetLeavesTheHaltedState : Prop :=
  ∀ (s t : State) (m : HostMove), s.fault ≠ .none → s.move m = .next t →
    ((∃ rom, m = .reset rom) ∧ t.fault = .none ∧ t.pc = 0x200#16 ∧ t.sp.val = 0) ∨
    ((∀ rom, m ≠ .reset rom) ∧ UnchangedExcept [.keypad, .dirty, .cycleInput] s t)

/-- R327 (D13, D21): the reads answer FB in the order `index = y*64 + x`, DIRTY, DT and ST, and FAULT's code. -/
def Obligations.HostReadsAnswerTheState : Prop :=
  ∀ s : State, s.readFramebuffer.length = 2048 ∧
    (∀ x y (_ : x < 64) (_ : y < 32), s.readFramebuffer[y * 64 + x]? = some (cellAt s.fb x y)) ∧
    s.readDirty = s.dirty ∧ s.readTimers = (s.dt, s.st) ∧
    (s.readFault.toNat = match s.fault with | .none => 0 | .stackOverflow => 1 | .stackUnderflow => 2)
end

