-- ==== Sys2Proof/Laws/State.lean ====
section
/-! SUPPORT. One lemma per field per update of State, so that no proof unfolds a record update. -/

namespace Sys2Proof.Machine

variable (s : State)

/-! `State.setV` -/

@[simp] theorem setV_cfg (r : Reg) (b : Byte) : (s.setV r b).cfg = s.cfg := rfl
@[simp] theorem setV_mem (r : Reg) (b : Byte) : (s.setV r b).mem = s.mem := rfl
@[simp] theorem setV_v (r : Reg) (b : Byte) : (s.setV r b).v = s.v.set r.val b := rfl
@[simp] theorem setV_i (r : Reg) (b : Byte) : (s.setV r b).i = s.i := rfl
@[simp] theorem setV_pc (r : Reg) (b : Byte) : (s.setV r b).pc = s.pc := rfl
@[simp] theorem setV_sp (r : Reg) (b : Byte) : (s.setV r b).sp = s.sp := rfl
@[simp] theorem setV_stack (r : Reg) (b : Byte) : (s.setV r b).stack = s.stack := rfl
@[simp] theorem setV_dt (r : Reg) (b : Byte) : (s.setV r b).dt = s.dt := rfl
@[simp] theorem setV_st (r : Reg) (b : Byte) : (s.setV r b).st = s.st := rfl
@[simp] theorem setV_key (r : Reg) (b : Byte) : (s.setV r b).key = s.key := rfl
@[simp] theorem setV_lastKey (r : Reg) (b : Byte) : (s.setV r b).lastKey = s.lastKey := rfl
@[simp] theorem setV_inputPending (r : Reg) (b : Byte) : (s.setV r b).inputPending = s.inputPending := rfl
@[simp] theorem setV_fb (r : Reg) (b : Byte) : (s.setV r b).fb = s.fb := rfl
@[simp] theorem setV_dirty (r : Reg) (b : Byte) : (s.setV r b).dirty = s.dirty := rfl
@[simp] theorem setV_fault (r : Reg) (b : Byte) : (s.setV r b).fault = s.fault := rfl
@[simp] theorem setV_ir (r : Reg) (b : Byte) : (s.setV r b).ir = s.ir := rfl
@[simp] theorem setV_rnd (r : Reg) (b : Byte) : (s.setV r b).rnd = s.rnd := rfl
@[simp] theorem setV_rndIndex (r : Reg) (b : Byte) : (s.setV r b).rndIndex = s.rndIndex := rfl
@[simp] theorem setV_script (r : Reg) (b : Byte) : (s.setV r b).script = s.script := rfl

/-! `State.setPc` -/

@[simp] theorem setPc_cfg (w : Word) : (s.setPc w).cfg = s.cfg := rfl
@[simp] theorem setPc_mem (w : Word) : (s.setPc w).mem = s.mem := rfl
@[simp] theorem setPc_v (w : Word) : (s.setPc w).v = s.v := rfl
@[simp] theorem setPc_i (w : Word) : (s.setPc w).i = s.i := rfl
@[simp] theorem setPc_pc (w : Word) : (s.setPc w).pc = w := rfl
@[simp] theorem setPc_sp (w : Word) : (s.setPc w).sp = s.sp := rfl
@[simp] theorem setPc_stack (w : Word) : (s.setPc w).stack = s.stack := rfl
@[simp] theorem setPc_dt (w : Word) : (s.setPc w).dt = s.dt := rfl
@[simp] theorem setPc_st (w : Word) : (s.setPc w).st = s.st := rfl
@[simp] theorem setPc_key (w : Word) : (s.setPc w).key = s.key := rfl
@[simp] theorem setPc_lastKey (w : Word) : (s.setPc w).lastKey = s.lastKey := rfl
@[simp] theorem setPc_inputPending (w : Word) : (s.setPc w).inputPending = s.inputPending := rfl
@[simp] theorem setPc_fb (w : Word) : (s.setPc w).fb = s.fb := rfl
@[simp] theorem setPc_dirty (w : Word) : (s.setPc w).dirty = s.dirty := rfl
@[simp] theorem setPc_fault (w : Word) : (s.setPc w).fault = s.fault := rfl
@[simp] theorem setPc_ir (w : Word) : (s.setPc w).ir = s.ir := rfl
@[simp] theorem setPc_rnd (w : Word) : (s.setPc w).rnd = s.rnd := rfl
@[simp] theorem setPc_rndIndex (w : Word) : (s.setPc w).rndIndex = s.rndIndex := rfl
@[simp] theorem setPc_script (w : Word) : (s.setPc w).script = s.script := rfl

/-! `State.advance` -/

@[simp] theorem advance_cfg : (s.advance).cfg = s.cfg := rfl
@[simp] theorem advance_mem : (s.advance).mem = s.mem := rfl
@[simp] theorem advance_v : (s.advance).v = s.v := rfl
@[simp] theorem advance_i : (s.advance).i = s.i := rfl
@[simp] theorem advance_pc : (s.advance).pc = s.pc + 2#16 := rfl
@[simp] theorem advance_sp : (s.advance).sp = s.sp := rfl
@[simp] theorem advance_stack : (s.advance).stack = s.stack := rfl
@[simp] theorem advance_dt : (s.advance).dt = s.dt := rfl
@[simp] theorem advance_st : (s.advance).st = s.st := rfl
@[simp] theorem advance_key : (s.advance).key = s.key := rfl
@[simp] theorem advance_lastKey : (s.advance).lastKey = s.lastKey := rfl
@[simp] theorem advance_inputPending : (s.advance).inputPending = s.inputPending := rfl
@[simp] theorem advance_fb : (s.advance).fb = s.fb := rfl
@[simp] theorem advance_dirty : (s.advance).dirty = s.dirty := rfl
@[simp] theorem advance_fault : (s.advance).fault = s.fault := rfl
@[simp] theorem advance_ir : (s.advance).ir = s.ir := rfl
@[simp] theorem advance_rnd : (s.advance).rnd = s.rnd := rfl
@[simp] theorem advance_rndIndex : (s.advance).rndIndex = s.rndIndex := rfl
@[simp] theorem advance_script : (s.advance).script = s.script := rfl

/-! `State.skipIf` -/

@[simp] theorem skipIf_cfg (c : Bool) : (s.skipIf c).cfg = s.cfg := rfl
@[simp] theorem skipIf_mem (c : Bool) : (s.skipIf c).mem = s.mem := rfl
@[simp] theorem skipIf_v (c : Bool) : (s.skipIf c).v = s.v := rfl
@[simp] theorem skipIf_i (c : Bool) : (s.skipIf c).i = s.i := rfl
@[simp] theorem skipIf_pc (c : Bool) : (s.skipIf c).pc = s.pc + if c then 4#16 else 2#16 := rfl
@[simp] theorem skipIf_sp (c : Bool) : (s.skipIf c).sp = s.sp := rfl
@[simp] theorem skipIf_stack (c : Bool) : (s.skipIf c).stack = s.stack := rfl
@[simp] theorem skipIf_dt (c : Bool) : (s.skipIf c).dt = s.dt := rfl
@[simp] theorem skipIf_st (c : Bool) : (s.skipIf c).st = s.st := rfl
@[simp] theorem skipIf_key (c : Bool) : (s.skipIf c).key = s.key := rfl
@[simp] theorem skipIf_lastKey (c : Bool) : (s.skipIf c).lastKey = s.lastKey := rfl
@[simp] theorem skipIf_inputPending (c : Bool) : (s.skipIf c).inputPending = s.inputPending := rfl
@[simp] theorem skipIf_fb (c : Bool) : (s.skipIf c).fb = s.fb := rfl
@[simp] theorem skipIf_dirty (c : Bool) : (s.skipIf c).dirty = s.dirty := rfl
@[simp] theorem skipIf_fault (c : Bool) : (s.skipIf c).fault = s.fault := rfl
@[simp] theorem skipIf_ir (c : Bool) : (s.skipIf c).ir = s.ir := rfl
@[simp] theorem skipIf_rnd (c : Bool) : (s.skipIf c).rnd = s.rnd := rfl
@[simp] theorem skipIf_rndIndex (c : Bool) : (s.skipIf c).rndIndex = s.rndIndex := rfl
@[simp] theorem skipIf_script (c : Bool) : (s.skipIf c).script = s.script := rfl

/-! `State.setI` -/

@[simp] theorem setI_cfg (w : Word) : (s.setI w).cfg = s.cfg := rfl
@[simp] theorem setI_mem (w : Word) : (s.setI w).mem = s.mem := rfl
@[simp] theorem setI_v (w : Word) : (s.setI w).v = s.v := rfl
@[simp] theorem setI_i (w : Word) : (s.setI w).i = w := rfl
@[simp] theorem setI_pc (w : Word) : (s.setI w).pc = s.pc := rfl
@[simp] theorem setI_sp (w : Word) : (s.setI w).sp = s.sp := rfl
@[simp] theorem setI_stack (w : Word) : (s.setI w).stack = s.stack := rfl
@[simp] theorem setI_dt (w : Word) : (s.setI w).dt = s.dt := rfl
@[simp] theorem setI_st (w : Word) : (s.setI w).st = s.st := rfl
@[simp] theorem setI_key (w : Word) : (s.setI w).key = s.key := rfl
@[simp] theorem setI_lastKey (w : Word) : (s.setI w).lastKey = s.lastKey := rfl
@[simp] theorem setI_inputPending (w : Word) : (s.setI w).inputPending = s.inputPending := rfl
@[simp] theorem setI_fb (w : Word) : (s.setI w).fb = s.fb := rfl
@[simp] theorem setI_dirty (w : Word) : (s.setI w).dirty = s.dirty := rfl
@[simp] theorem setI_fault (w : Word) : (s.setI w).fault = s.fault := rfl
@[simp] theorem setI_ir (w : Word) : (s.setI w).ir = s.ir := rfl
@[simp] theorem setI_rnd (w : Word) : (s.setI w).rnd = s.rnd := rfl
@[simp] theorem setI_rndIndex (w : Word) : (s.setI w).rndIndex = s.rndIndex := rfl
@[simp] theorem setI_script (w : Word) : (s.setI w).script = s.script := rfl

/-! `State.setIr` -/

@[simp] theorem setIr_cfg (w : Word) : (s.setIr w).cfg = s.cfg := rfl
@[simp] theorem setIr_mem (w : Word) : (s.setIr w).mem = s.mem := rfl
@[simp] theorem setIr_v (w : Word) : (s.setIr w).v = s.v := rfl
@[simp] theorem setIr_i (w : Word) : (s.setIr w).i = s.i := rfl
@[simp] theorem setIr_pc (w : Word) : (s.setIr w).pc = s.pc := rfl
@[simp] theorem setIr_sp (w : Word) : (s.setIr w).sp = s.sp := rfl
@[simp] theorem setIr_stack (w : Word) : (s.setIr w).stack = s.stack := rfl
@[simp] theorem setIr_dt (w : Word) : (s.setIr w).dt = s.dt := rfl
@[simp] theorem setIr_st (w : Word) : (s.setIr w).st = s.st := rfl
@[simp] theorem setIr_key (w : Word) : (s.setIr w).key = s.key := rfl
@[simp] theorem setIr_lastKey (w : Word) : (s.setIr w).lastKey = s.lastKey := rfl
@[simp] theorem setIr_inputPending (w : Word) : (s.setIr w).inputPending = s.inputPending := rfl
@[simp] theorem setIr_fb (w : Word) : (s.setIr w).fb = s.fb := rfl
@[simp] theorem setIr_dirty (w : Word) : (s.setIr w).dirty = s.dirty := rfl
@[simp] theorem setIr_fault (w : Word) : (s.setIr w).fault = s.fault := rfl
@[simp] theorem setIr_ir (w : Word) : (s.setIr w).ir = w := rfl
@[simp] theorem setIr_rnd (w : Word) : (s.setIr w).rnd = s.rnd := rfl
@[simp] theorem setIr_rndIndex (w : Word) : (s.setIr w).rndIndex = s.rndIndex := rfl
@[simp] theorem setIr_script (w : Word) : (s.setIr w).script = s.script := rfl

/-! `State.setDt` -/

@[simp] theorem setDt_cfg (b : Byte) : (s.setDt b).cfg = s.cfg := rfl
@[simp] theorem setDt_mem (b : Byte) : (s.setDt b).mem = s.mem := rfl
@[simp] theorem setDt_v (b : Byte) : (s.setDt b).v = s.v := rfl
@[simp] theorem setDt_i (b : Byte) : (s.setDt b).i = s.i := rfl
@[simp] theorem setDt_pc (b : Byte) : (s.setDt b).pc = s.pc := rfl
@[simp] theorem setDt_sp (b : Byte) : (s.setDt b).sp = s.sp := rfl
@[simp] theorem setDt_stack (b : Byte) : (s.setDt b).stack = s.stack := rfl
@[simp] theorem setDt_dt (b : Byte) : (s.setDt b).dt = b := rfl
@[simp] theorem setDt_st (b : Byte) : (s.setDt b).st = s.st := rfl
@[simp] theorem setDt_key (b : Byte) : (s.setDt b).key = s.key := rfl
@[simp] theorem setDt_lastKey (b : Byte) : (s.setDt b).lastKey = s.lastKey := rfl
@[simp] theorem setDt_inputPending (b : Byte) : (s.setDt b).inputPending = s.inputPending := rfl
@[simp] theorem setDt_fb (b : Byte) : (s.setDt b).fb = s.fb := rfl
@[simp] theorem setDt_dirty (b : Byte) : (s.setDt b).dirty = s.dirty := rfl
@[simp] theorem setDt_fault (b : Byte) : (s.setDt b).fault = s.fault := rfl
@[simp] theorem setDt_ir (b : Byte) : (s.setDt b).ir = s.ir := rfl
@[simp] theorem setDt_rnd (b : Byte) : (s.setDt b).rnd = s.rnd := rfl
@[simp] theorem setDt_rndIndex (b : Byte) : (s.setDt b).rndIndex = s.rndIndex := rfl
@[simp] theorem setDt_script (b : Byte) : (s.setDt b).script = s.script := rfl

/-! `State.setSt` -/

@[simp] theorem setSt_cfg (b : Byte) : (s.setSt b).cfg = s.cfg := rfl
@[simp] theorem setSt_mem (b : Byte) : (s.setSt b).mem = s.mem := rfl
@[simp] theorem setSt_v (b : Byte) : (s.setSt b).v = s.v := rfl
@[simp] theorem setSt_i (b : Byte) : (s.setSt b).i = s.i := rfl
@[simp] theorem setSt_pc (b : Byte) : (s.setSt b).pc = s.pc := rfl
@[simp] theorem setSt_sp (b : Byte) : (s.setSt b).sp = s.sp := rfl
@[simp] theorem setSt_stack (b : Byte) : (s.setSt b).stack = s.stack := rfl
@[simp] theorem setSt_dt (b : Byte) : (s.setSt b).dt = s.dt := rfl
@[simp] theorem setSt_st (b : Byte) : (s.setSt b).st = b := rfl
@[simp] theorem setSt_key (b : Byte) : (s.setSt b).key = s.key := rfl
@[simp] theorem setSt_lastKey (b : Byte) : (s.setSt b).lastKey = s.lastKey := rfl
@[simp] theorem setSt_inputPending (b : Byte) : (s.setSt b).inputPending = s.inputPending := rfl
@[simp] theorem setSt_fb (b : Byte) : (s.setSt b).fb = s.fb := rfl
@[simp] theorem setSt_dirty (b : Byte) : (s.setSt b).dirty = s.dirty := rfl
@[simp] theorem setSt_fault (b : Byte) : (s.setSt b).fault = s.fault := rfl
@[simp] theorem setSt_ir (b : Byte) : (s.setSt b).ir = s.ir := rfl
@[simp] theorem setSt_rnd (b : Byte) : (s.setSt b).rnd = s.rnd := rfl
@[simp] theorem setSt_rndIndex (b : Byte) : (s.setSt b).rndIndex = s.rndIndex := rfl
@[simp] theorem setSt_script (b : Byte) : (s.setSt b).script = s.script := rfl

/-! `State.raiseFault` -/

@[simp] theorem raiseFault_cfg (f : FaultCode) : (s.raiseFault f).cfg = s.cfg := rfl
@[simp] theorem raiseFault_mem (f : FaultCode) : (s.raiseFault f).mem = s.mem := rfl
@[simp] theorem raiseFault_v (f : FaultCode) : (s.raiseFault f).v = s.v := rfl
@[simp] theorem raiseFault_i (f : FaultCode) : (s.raiseFault f).i = s.i := rfl
@[simp] theorem raiseFault_pc (f : FaultCode) : (s.raiseFault f).pc = s.pc := rfl
@[simp] theorem raiseFault_sp (f : FaultCode) : (s.raiseFault f).sp = s.sp := rfl
@[simp] theorem raiseFault_stack (f : FaultCode) : (s.raiseFault f).stack = s.stack := rfl
@[simp] theorem raiseFault_dt (f : FaultCode) : (s.raiseFault f).dt = s.dt := rfl
@[simp] theorem raiseFault_st (f : FaultCode) : (s.raiseFault f).st = s.st := rfl
@[simp] theorem raiseFault_key (f : FaultCode) : (s.raiseFault f).key = s.key := rfl
@[simp] theorem raiseFault_lastKey (f : FaultCode) : (s.raiseFault f).lastKey = s.lastKey := rfl
@[simp] theorem raiseFault_inputPending (f : FaultCode) : (s.raiseFault f).inputPending = s.inputPending := rfl
@[simp] theorem raiseFault_fb (f : FaultCode) : (s.raiseFault f).fb = s.fb := rfl
@[simp] theorem raiseFault_dirty (f : FaultCode) : (s.raiseFault f).dirty = s.dirty := rfl
@[simp] theorem raiseFault_fault (f : FaultCode) : (s.raiseFault f).fault = f := rfl
@[simp] theorem raiseFault_ir (f : FaultCode) : (s.raiseFault f).ir = s.ir := rfl
@[simp] theorem raiseFault_rnd (f : FaultCode) : (s.raiseFault f).rnd = s.rnd := rfl
@[simp] theorem raiseFault_rndIndex (f : FaultCode) : (s.raiseFault f).rndIndex = s.rndIndex := rfl
@[simp] theorem raiseFault_script (f : FaultCode) : (s.raiseFault f).script = s.script := rfl

/-! `State.setScreen` -/

@[simp] theorem setScreen_cfg (g : Screen) : (s.setScreen g).cfg = s.cfg := rfl
@[simp] theorem setScreen_mem (g : Screen) : (s.setScreen g).mem = s.mem := rfl
@[simp] theorem setScreen_v (g : Screen) : (s.setScreen g).v = s.v := rfl
@[simp] theorem setScreen_i (g : Screen) : (s.setScreen g).i = s.i := rfl
@[simp] theorem setScreen_pc (g : Screen) : (s.setScreen g).pc = s.pc := rfl
@[simp] theorem setScreen_sp (g : Screen) : (s.setScreen g).sp = s.sp := rfl
@[simp] theorem setScreen_stack (g : Screen) : (s.setScreen g).stack = s.stack := rfl
@[simp] theorem setScreen_dt (g : Screen) : (s.setScreen g).dt = s.dt := rfl
@[simp] theorem setScreen_st (g : Screen) : (s.setScreen g).st = s.st := rfl
@[simp] theorem setScreen_key (g : Screen) : (s.setScreen g).key = s.key := rfl
@[simp] theorem setScreen_lastKey (g : Screen) : (s.setScreen g).lastKey = s.lastKey := rfl
@[simp] theorem setScreen_inputPending (g : Screen) : (s.setScreen g).inputPending = s.inputPending := rfl
@[simp] theorem setScreen_fb (g : Screen) : (s.setScreen g).fb = g := rfl
@[simp] theorem setScreen_dirty (g : Screen) : (s.setScreen g).dirty = true := rfl
@[simp] theorem setScreen_fault (g : Screen) : (s.setScreen g).fault = s.fault := rfl
@[simp] theorem setScreen_ir (g : Screen) : (s.setScreen g).ir = s.ir := rfl
@[simp] theorem setScreen_rnd (g : Screen) : (s.setScreen g).rnd = s.rnd := rfl
@[simp] theorem setScreen_rndIndex (g : Screen) : (s.setScreen g).rndIndex = s.rndIndex := rfl
@[simp] theorem setScreen_script (g : Screen) : (s.setScreen g).script = s.script := rfl

/-! `State.poke` -/

@[simp] theorem poke_cfg (a : Nat) (b : Byte) : (s.poke a b).cfg = s.cfg := rfl
@[simp] theorem poke_mem (a : Nat) (b : Byte) : (s.poke a b).mem = storeByte s.cfg s.mem (a % 4096) b := rfl
@[simp] theorem poke_v (a : Nat) (b : Byte) : (s.poke a b).v = s.v := rfl
@[simp] theorem poke_i (a : Nat) (b : Byte) : (s.poke a b).i = s.i := rfl
@[simp] theorem poke_pc (a : Nat) (b : Byte) : (s.poke a b).pc = s.pc := rfl
@[simp] theorem poke_sp (a : Nat) (b : Byte) : (s.poke a b).sp = s.sp := rfl
@[simp] theorem poke_stack (a : Nat) (b : Byte) : (s.poke a b).stack = s.stack := rfl
@[simp] theorem poke_dt (a : Nat) (b : Byte) : (s.poke a b).dt = s.dt := rfl
@[simp] theorem poke_st (a : Nat) (b : Byte) : (s.poke a b).st = s.st := rfl
@[simp] theorem poke_key (a : Nat) (b : Byte) : (s.poke a b).key = s.key := rfl
@[simp] theorem poke_lastKey (a : Nat) (b : Byte) : (s.poke a b).lastKey = s.lastKey := rfl
@[simp] theorem poke_inputPending (a : Nat) (b : Byte) : (s.poke a b).inputPending = s.inputPending := rfl
@[simp] theorem poke_fb (a : Nat) (b : Byte) : (s.poke a b).fb = s.fb := rfl
@[simp] theorem poke_dirty (a : Nat) (b : Byte) : (s.poke a b).dirty = s.dirty := rfl
@[simp] theorem poke_fault (a : Nat) (b : Byte) : (s.poke a b).fault = s.fault := rfl
@[simp] theorem poke_ir (a : Nat) (b : Byte) : (s.poke a b).ir = s.ir := rfl
@[simp] theorem poke_rnd (a : Nat) (b : Byte) : (s.poke a b).rnd = s.rnd := rfl
@[simp] theorem poke_rndIndex (a : Nat) (b : Byte) : (s.poke a b).rndIndex = s.rndIndex := rfl
@[simp] theorem poke_script (a : Nat) (b : Byte) : (s.poke a b).script = s.script := rfl

/-! `State.tickTimers` -/

@[simp] theorem tickTimers_cfg : (s.tickTimers).cfg = s.cfg := rfl
@[simp] theorem tickTimers_mem : (s.tickTimers).mem = s.mem := rfl
@[simp] theorem tickTimers_v : (s.tickTimers).v = s.v := rfl
@[simp] theorem tickTimers_i : (s.tickTimers).i = s.i := rfl
@[simp] theorem tickTimers_pc : (s.tickTimers).pc = s.pc := rfl
@[simp] theorem tickTimers_sp : (s.tickTimers).sp = s.sp := rfl
@[simp] theorem tickTimers_stack : (s.tickTimers).stack = s.stack := rfl
@[simp] theorem tickTimers_dt : (s.tickTimers).dt = countDown s.dt := rfl
@[simp] theorem tickTimers_st : (s.tickTimers).st = countDown s.st := rfl
@[simp] theorem tickTimers_key : (s.tickTimers).key = s.key := rfl
@[simp] theorem tickTimers_lastKey : (s.tickTimers).lastKey = s.lastKey := rfl
@[simp] theorem tickTimers_inputPending : (s.tickTimers).inputPending = s.inputPending := rfl
@[simp] theorem tickTimers_fb : (s.tickTimers).fb = s.fb := rfl
@[simp] theorem tickTimers_dirty : (s.tickTimers).dirty = s.dirty := rfl
@[simp] theorem tickTimers_fault : (s.tickTimers).fault = s.fault := rfl
@[simp] theorem tickTimers_ir : (s.tickTimers).ir = s.ir := rfl
@[simp] theorem tickTimers_rnd : (s.tickTimers).rnd = s.rnd := rfl
@[simp] theorem tickTimers_rndIndex : (s.tickTimers).rndIndex = s.rndIndex := rfl
@[simp] theorem tickTimers_script : (s.tickTimers).script = s.script := rfl

/-! `State.loadRegs` -/

@[simp] theorem loadRegs_cfg (x : Reg) : (s.loadRegs x).cfg = s.cfg := by unfold State.loadRegs; rfl
@[simp] theorem loadRegs_mem (x : Reg) : (s.loadRegs x).mem = s.mem := by unfold State.loadRegs; rfl
@[simp] theorem loadRegs_i (x : Reg) : (s.loadRegs x).i = s.i := by unfold State.loadRegs; rfl
@[simp] theorem loadRegs_pc (x : Reg) : (s.loadRegs x).pc = s.pc := by unfold State.loadRegs; rfl
@[simp] theorem loadRegs_sp (x : Reg) : (s.loadRegs x).sp = s.sp := by unfold State.loadRegs; rfl
@[simp] theorem loadRegs_stack (x : Reg) : (s.loadRegs x).stack = s.stack := by unfold State.loadRegs; rfl
@[simp] theorem loadRegs_dt (x : Reg) : (s.loadRegs x).dt = s.dt := by unfold State.loadRegs; rfl
@[simp] theorem loadRegs_st (x : Reg) : (s.loadRegs x).st = s.st := by unfold State.loadRegs; rfl
@[simp] theorem loadRegs_key (x : Reg) : (s.loadRegs x).key = s.key := by unfold State.loadRegs; rfl
@[simp] theorem loadRegs_lastKey (x : Reg) : (s.loadRegs x).lastKey = s.lastKey := by unfold State.loadRegs; rfl
@[simp] theorem loadRegs_inputPending (x : Reg) : (s.loadRegs x).inputPending = s.inputPending := by unfold State.loadRegs; rfl
@[simp] theorem loadRegs_fb (x : Reg) : (s.loadRegs x).fb = s.fb := by unfold State.loadRegs; rfl
@[simp] theorem loadRegs_dirty (x : Reg) : (s.loadRegs x).dirty = s.dirty := by unfold State.loadRegs; rfl
@[simp] theorem loadRegs_fault (x : Reg) : (s.loadRegs x).fault = s.fault := by unfold State.loadRegs; rfl
@[simp] theorem loadRegs_ir (x : Reg) : (s.loadRegs x).ir = s.ir := by unfold State.loadRegs; rfl
@[simp] theorem loadRegs_rnd (x : Reg) : (s.loadRegs x).rnd = s.rnd := by unfold State.loadRegs; rfl
@[simp] theorem loadRegs_rndIndex (x : Reg) : (s.loadRegs x).rndIndex = s.rndIndex := by unfold State.loadRegs; rfl
@[simp] theorem loadRegs_script (x : Reg) : (s.loadRegs x).script = s.script := by unfold State.loadRegs; rfl

/-! `State.setResultThenFlag` -/

@[simp] theorem setResultThenFlag_cfg (x : Reg) (r f : Byte) : (s.setResultThenFlag x r f).cfg = s.cfg := rfl
@[simp] theorem setResultThenFlag_mem (x : Reg) (r f : Byte) : (s.setResultThenFlag x r f).mem = s.mem := rfl
@[simp] theorem setResultThenFlag_v (x : Reg) (r f : Byte) : (s.setResultThenFlag x r f).v = (s.v.set x.val r).set vF.val f := rfl
@[simp] theorem setResultThenFlag_i (x : Reg) (r f : Byte) : (s.setResultThenFlag x r f).i = s.i := rfl
@[simp] theorem setResultThenFlag_pc (x : Reg) (r f : Byte) : (s.setResultThenFlag x r f).pc = s.pc := rfl
@[simp] theorem setResultThenFlag_sp (x : Reg) (r f : Byte) : (s.setResultThenFlag x r f).sp = s.sp := rfl
@[simp] theorem setResultThenFlag_stack (x : Reg) (r f : Byte) : (s.setResultThenFlag x r f).stack = s.stack := rfl
@[simp] theorem setResultThenFlag_dt (x : Reg) (r f : Byte) : (s.setResultThenFlag x r f).dt = s.dt := rfl
@[simp] theorem setResultThenFlag_st (x : Reg) (r f : Byte) : (s.setResultThenFlag x r f).st = s.st := rfl
@[simp] theorem setResultThenFlag_key (x : Reg) (r f : Byte) : (s.setResultThenFlag x r f).key = s.key := rfl
@[simp] theorem setResultThenFlag_lastKey (x : Reg) (r f : Byte) : (s.setResultThenFlag x r f).lastKey = s.lastKey := rfl
@[simp] theorem setResultThenFlag_inputPending (x : Reg) (r f : Byte) : (s.setResultThenFlag x r f).inputPending = s.inputPending := rfl
@[simp] theorem setResultThenFlag_fb (x : Reg) (r f : Byte) : (s.setResultThenFlag x r f).fb = s.fb := rfl
@[simp] theorem setResultThenFlag_dirty (x : Reg) (r f : Byte) : (s.setResultThenFlag x r f).dirty = s.dirty := rfl
@[simp] theorem setResultThenFlag_fault (x : Reg) (r f : Byte) : (s.setResultThenFlag x r f).fault = s.fault := rfl
@[simp] theorem setResultThenFlag_ir (x : Reg) (r f : Byte) : (s.setResultThenFlag x r f).ir = s.ir := rfl
@[simp] theorem setResultThenFlag_rnd (x : Reg) (r f : Byte) : (s.setResultThenFlag x r f).rnd = s.rnd := rfl
@[simp] theorem setResultThenFlag_rndIndex (x : Reg) (r f : Byte) : (s.setResultThenFlag x r f).rndIndex = s.rndIndex := rfl
@[simp] theorem setResultThenFlag_script (x : Reg) (r f : Byte) : (s.setResultThenFlag x r f).script = s.script := rfl

theorem poke_shape (a : Nat) (b : Byte) : ∃ m, s.poke a b = { s with mem := m } := ⟨_, rfl⟩

theorem memWrite_shape (a : Nat) (b : Byte) : ∃ m, s.memWrite a b = { s with mem := m } := by
  unfold State.memWrite; split
  · exact ⟨s.mem, rfl⟩
  · exact ⟨_, rfl⟩

/-! `State.memWrite`: every field but `mem` -/

@[simp] theorem memWrite_cfg (a : Nat) (b : Byte) : (s.memWrite a b).cfg = s.cfg := by
  unfold State.memWrite; split <;> rfl
@[simp] theorem memWrite_v (a : Nat) (b : Byte) : (s.memWrite a b).v = s.v := by
  unfold State.memWrite; split <;> rfl
@[simp] theorem memWrite_i (a : Nat) (b : Byte) : (s.memWrite a b).i = s.i := by
  unfold State.memWrite; split <;> rfl
@[simp] theorem memWrite_pc (a : Nat) (b : Byte) : (s.memWrite a b).pc = s.pc := by
  unfold State.memWrite; split <;> rfl
@[simp] theorem memWrite_sp (a : Nat) (b : Byte) : (s.memWrite a b).sp = s.sp := by
  unfold State.memWrite; split <;> rfl
@[simp] theorem memWrite_stack (a : Nat) (b : Byte) : (s.memWrite a b).stack = s.stack := by
  unfold State.memWrite; split <;> rfl
@[simp] theorem memWrite_dt (a : Nat) (b : Byte) : (s.memWrite a b).dt = s.dt := by
  unfold State.memWrite; split <;> rfl
@[simp] theorem memWrite_st (a : Nat) (b : Byte) : (s.memWrite a b).st = s.st := by
  unfold State.memWrite; split <;> rfl
@[simp] theorem memWrite_key (a : Nat) (b : Byte) : (s.memWrite a b).key = s.key := by
  unfold State.memWrite; split <;> rfl
@[simp] theorem memWrite_lastKey (a : Nat) (b : Byte) : (s.memWrite a b).lastKey = s.lastKey := by
  unfold State.memWrite; split <;> rfl
@[simp] theorem memWrite_inputPending (a : Nat) (b : Byte) : (s.memWrite a b).inputPending = s.inputPending := by
  unfold State.memWrite; split <;> rfl
@[simp] theorem memWrite_fb (a : Nat) (b : Byte) : (s.memWrite a b).fb = s.fb := by
  unfold State.memWrite; split <;> rfl
@[simp] theorem memWrite_dirty (a : Nat) (b : Byte) : (s.memWrite a b).dirty = s.dirty := by
  unfold State.memWrite; split <;> rfl
@[simp] theorem memWrite_fault (a : Nat) (b : Byte) : (s.memWrite a b).fault = s.fault := by
  unfold State.memWrite; split <;> rfl
@[simp] theorem memWrite_ir (a : Nat) (b : Byte) : (s.memWrite a b).ir = s.ir := by
  unfold State.memWrite; split <;> rfl
@[simp] theorem memWrite_rnd (a : Nat) (b : Byte) : (s.memWrite a b).rnd = s.rnd := by
  unfold State.memWrite; split <;> rfl
@[simp] theorem memWrite_rndIndex (a : Nat) (b : Byte) : (s.memWrite a b).rndIndex = s.rndIndex := by
  unfold State.memWrite; split <;> rfl
@[simp] theorem memWrite_script (a : Nat) (b : Byte) : (s.memWrite a b).script = s.script := by
  unfold State.memWrite; split <;> rfl

/-! `State.postIncrementI`: every field but `i` -/

@[simp] theorem postIncrementI_cfg (x : Reg) : (s.postIncrementI x).cfg = s.cfg := by
  unfold State.postIncrementI; split <;> rfl
@[simp] theorem postIncrementI_mem (x : Reg) : (s.postIncrementI x).mem = s.mem := by
  unfold State.postIncrementI; split <;> rfl
@[simp] theorem postIncrementI_v (x : Reg) : (s.postIncrementI x).v = s.v := by
  unfold State.postIncrementI; split <;> rfl
@[simp] theorem postIncrementI_pc (x : Reg) : (s.postIncrementI x).pc = s.pc := by
  unfold State.postIncrementI; split <;> rfl
@[simp] theorem postIncrementI_sp (x : Reg) : (s.postIncrementI x).sp = s.sp := by
  unfold State.postIncrementI; split <;> rfl
@[simp] theorem postIncrementI_stack (x : Reg) : (s.postIncrementI x).stack = s.stack := by
  unfold State.postIncrementI; split <;> rfl
@[simp] theorem postIncrementI_dt (x : Reg) : (s.postIncrementI x).dt = s.dt := by
  unfold State.postIncrementI; split <;> rfl
@[simp] theorem postIncrementI_st (x : Reg) : (s.postIncrementI x).st = s.st := by
  unfold State.postIncrementI; split <;> rfl
@[simp] theorem postIncrementI_key (x : Reg) : (s.postIncrementI x).key = s.key := by
  unfold State.postIncrementI; split <;> rfl
@[simp] theorem postIncrementI_lastKey (x : Reg) : (s.postIncrementI x).lastKey = s.lastKey := by
  unfold State.postIncrementI; split <;> rfl
@[simp] theorem postIncrementI_inputPending (x : Reg) : (s.postIncrementI x).inputPending = s.inputPending := by
  unfold State.postIncrementI; split <;> rfl
@[simp] theorem postIncrementI_fb (x : Reg) : (s.postIncrementI x).fb = s.fb := by
  unfold State.postIncrementI; split <;> rfl
@[simp] theorem postIncrementI_dirty (x : Reg) : (s.postIncrementI x).dirty = s.dirty := by
  unfold State.postIncrementI; split <;> rfl
@[simp] theorem postIncrementI_fault (x : Reg) : (s.postIncrementI x).fault = s.fault := by
  unfold State.postIncrementI; split <;> rfl
@[simp] theorem postIncrementI_ir (x : Reg) : (s.postIncrementI x).ir = s.ir := by
  unfold State.postIncrementI; split <;> rfl
@[simp] theorem postIncrementI_rnd (x : Reg) : (s.postIncrementI x).rnd = s.rnd := by
  unfold State.postIncrementI; split <;> rfl
@[simp] theorem postIncrementI_rndIndex (x : Reg) : (s.postIncrementI x).rndIndex = s.rndIndex := by
  unfold State.postIncrementI; split <;> rfl
@[simp] theorem postIncrementI_script (x : Reg) : (s.postIncrementI x).script = s.script := by
  unfold State.postIncrementI; split <;> rfl

/-! `State.writeBytes`: every field but `mem` -/

theorem writeBytes_shape (a : Nat) (bs : List Byte) : ∃ m, s.writeBytes a bs = { s with mem := m } := by
  induction bs generalizing s a with
  | nil => exact ⟨s.mem, rfl⟩
  | cons b bs ih =>
    obtain ⟨m, hm⟩ := ih (s.memWrite a b) (a + 1)
    obtain ⟨m', hm'⟩ := memWrite_shape s a b
    exact ⟨m, by rw [State.writeBytes, hm, hm']⟩

@[simp] theorem writeBytes_cfg (a : Nat) (bs : List Byte) : (s.writeBytes a bs).cfg = s.cfg := by
  obtain ⟨m, h⟩ := writeBytes_shape s a bs; rw [h]
@[simp] theorem writeBytes_v (a : Nat) (bs : List Byte) : (s.writeBytes a bs).v = s.v := by
  obtain ⟨m, h⟩ := writeBytes_shape s a bs; rw [h]
@[simp] theorem writeBytes_i (a : Nat) (bs : List Byte) : (s.writeBytes a bs).i = s.i := by
  obtain ⟨m, h⟩ := writeBytes_shape s a bs; rw [h]
@[simp] theorem writeBytes_pc (a : Nat) (bs : List Byte) : (s.writeBytes a bs).pc = s.pc := by
  obtain ⟨m, h⟩ := writeBytes_shape s a bs; rw [h]
@[simp] theorem writeBytes_sp (a : Nat) (bs : List Byte) : (s.writeBytes a bs).sp = s.sp := by
  obtain ⟨m, h⟩ := writeBytes_shape s a bs; rw [h]
@[simp] theorem writeBytes_stack (a : Nat) (bs : List Byte) : (s.writeBytes a bs).stack = s.stack := by
  obtain ⟨m, h⟩ := writeBytes_shape s a bs; rw [h]
@[simp] theorem writeBytes_dt (a : Nat) (bs : List Byte) : (s.writeBytes a bs).dt = s.dt := by
  obtain ⟨m, h⟩ := writeBytes_shape s a bs; rw [h]
@[simp] theorem writeBytes_st (a : Nat) (bs : List Byte) : (s.writeBytes a bs).st = s.st := by
  obtain ⟨m, h⟩ := writeBytes_shape s a bs; rw [h]
@[simp] theorem writeBytes_key (a : Nat) (bs : List Byte) : (s.writeBytes a bs).key = s.key := by
  obtain ⟨m, h⟩ := writeBytes_shape s a bs; rw [h]
@[simp] theorem writeBytes_lastKey (a : Nat) (bs : List Byte) : (s.writeBytes a bs).lastKey = s.lastKey := by
  obtain ⟨m, h⟩ := writeBytes_shape s a bs; rw [h]
@[simp] theorem writeBytes_inputPending (a : Nat) (bs : List Byte) : (s.writeBytes a bs).inputPending = s.inputPending := by
  obtain ⟨m, h⟩ := writeBytes_shape s a bs; rw [h]
@[simp] theorem writeBytes_fb (a : Nat) (bs : List Byte) : (s.writeBytes a bs).fb = s.fb := by
  obtain ⟨m, h⟩ := writeBytes_shape s a bs; rw [h]
@[simp] theorem writeBytes_dirty (a : Nat) (bs : List Byte) : (s.writeBytes a bs).dirty = s.dirty := by
  obtain ⟨m, h⟩ := writeBytes_shape s a bs; rw [h]
@[simp] theorem writeBytes_fault (a : Nat) (bs : List Byte) : (s.writeBytes a bs).fault = s.fault := by
  obtain ⟨m, h⟩ := writeBytes_shape s a bs; rw [h]
@[simp] theorem writeBytes_ir (a : Nat) (bs : List Byte) : (s.writeBytes a bs).ir = s.ir := by
  obtain ⟨m, h⟩ := writeBytes_shape s a bs; rw [h]
@[simp] theorem writeBytes_rnd (a : Nat) (bs : List Byte) : (s.writeBytes a bs).rnd = s.rnd := by
  obtain ⟨m, h⟩ := writeBytes_shape s a bs; rw [h]
@[simp] theorem writeBytes_rndIndex (a : Nat) (bs : List Byte) : (s.writeBytes a bs).rndIndex = s.rndIndex := by
  obtain ⟨m, h⟩ := writeBytes_shape s a bs; rw [h]
@[simp] theorem writeBytes_script (a : Nat) (bs : List Byte) : (s.writeBytes a bs).script = s.script := by
  obtain ⟨m, h⟩ := writeBytes_shape s a bs; rw [h]

/-! `State.pokeBytes`: every field but `mem` -/

theorem pokeBytes_shape (a : Nat) (bs : List Byte) : ∃ m, s.pokeBytes a bs = { s with mem := m } := by
  induction bs generalizing s a with
  | nil => exact ⟨s.mem, rfl⟩
  | cons b bs ih =>
    obtain ⟨m, hm⟩ := ih (s.poke a b) (a + 1)
    obtain ⟨m', hm'⟩ := poke_shape s a b
    exact ⟨m, by rw [State.pokeBytes, hm, hm']⟩

@[simp] theorem pokeBytes_cfg (a : Nat) (bs : List Byte) : (s.pokeBytes a bs).cfg = s.cfg := by
  obtain ⟨m, h⟩ := pokeBytes_shape s a bs; rw [h]
@[simp] theorem pokeBytes_v (a : Nat) (bs : List Byte) : (s.pokeBytes a bs).v = s.v := by
  obtain ⟨m, h⟩ := pokeBytes_shape s a bs; rw [h]
@[simp] theorem pokeBytes_i (a : Nat) (bs : List Byte) : (s.pokeBytes a bs).i = s.i := by
  obtain ⟨m, h⟩ := pokeBytes_shape s a bs; rw [h]
@[simp] theorem pokeBytes_pc (a : Nat) (bs : List Byte) : (s.pokeBytes a bs).pc = s.pc := by
  obtain ⟨m, h⟩ := pokeBytes_shape s a bs; rw [h]
@[simp] theorem pokeBytes_sp (a : Nat) (bs : List Byte) : (s.pokeBytes a bs).sp = s.sp := by
  obtain ⟨m, h⟩ := pokeBytes_shape s a bs; rw [h]
@[simp] theorem pokeBytes_stack (a : Nat) (bs : List Byte) : (s.pokeBytes a bs).stack = s.stack := by
  obtain ⟨m, h⟩ := pokeBytes_shape s a bs; rw [h]
@[simp] theorem pokeBytes_dt (a : Nat) (bs : List Byte) : (s.pokeBytes a bs).dt = s.dt := by
  obtain ⟨m, h⟩ := pokeBytes_shape s a bs; rw [h]
@[simp] theorem pokeBytes_st (a : Nat) (bs : List Byte) : (s.pokeBytes a bs).st = s.st := by
  obtain ⟨m, h⟩ := pokeBytes_shape s a bs; rw [h]
@[simp] theorem pokeBytes_key (a : Nat) (bs : List Byte) : (s.pokeBytes a bs).key = s.key := by
  obtain ⟨m, h⟩ := pokeBytes_shape s a bs; rw [h]
@[simp] theorem pokeBytes_lastKey (a : Nat) (bs : List Byte) : (s.pokeBytes a bs).lastKey = s.lastKey := by
  obtain ⟨m, h⟩ := pokeBytes_shape s a bs; rw [h]
@[simp] theorem pokeBytes_inputPending (a : Nat) (bs : List Byte) : (s.pokeBytes a bs).inputPending = s.inputPending := by
  obtain ⟨m, h⟩ := pokeBytes_shape s a bs; rw [h]
@[simp] theorem pokeBytes_fb (a : Nat) (bs : List Byte) : (s.pokeBytes a bs).fb = s.fb := by
  obtain ⟨m, h⟩ := pokeBytes_shape s a bs; rw [h]
@[simp] theorem pokeBytes_dirty (a : Nat) (bs : List Byte) : (s.pokeBytes a bs).dirty = s.dirty := by
  obtain ⟨m, h⟩ := pokeBytes_shape s a bs; rw [h]
@[simp] theorem pokeBytes_fault (a : Nat) (bs : List Byte) : (s.pokeBytes a bs).fault = s.fault := by
  obtain ⟨m, h⟩ := pokeBytes_shape s a bs; rw [h]
@[simp] theorem pokeBytes_ir (a : Nat) (bs : List Byte) : (s.pokeBytes a bs).ir = s.ir := by
  obtain ⟨m, h⟩ := pokeBytes_shape s a bs; rw [h]
@[simp] theorem pokeBytes_rnd (a : Nat) (bs : List Byte) : (s.pokeBytes a bs).rnd = s.rnd := by
  obtain ⟨m, h⟩ := pokeBytes_shape s a bs; rw [h]
@[simp] theorem pokeBytes_rndIndex (a : Nat) (bs : List Byte) : (s.pokeBytes a bs).rndIndex = s.rndIndex := by
  obtain ⟨m, h⟩ := pokeBytes_shape s a bs; rw [h]
@[simp] theorem pokeBytes_script (a : Nat) (bs : List Byte) : (s.pokeBytes a bs).script = s.script := by
  obtain ⟨m, h⟩ := pokeBytes_shape s a bs; rw [h]

/-! The accessors of every update that does not touch what they read. -/

@[simp] theorem setPc_getV (w : Word) (q : Reg) : (s.setPc w).getV q = s.getV q := rfl
@[simp] theorem advance_getV (q : Reg) : (s.advance).getV q = s.getV q := rfl
@[simp] theorem skipIf_getV (c : Bool) (q : Reg) : (s.skipIf c).getV q = s.getV q := rfl
@[simp] theorem setI_getV (w : Word) (q : Reg) : (s.setI w).getV q = s.getV q := rfl
@[simp] theorem setIr_getV (w : Word) (q : Reg) : (s.setIr w).getV q = s.getV q := rfl
@[simp] theorem setDt_getV (b : Byte) (q : Reg) : (s.setDt b).getV q = s.getV q := rfl
@[simp] theorem setSt_getV (b : Byte) (q : Reg) : (s.setSt b).getV q = s.getV q := rfl
@[simp] theorem raiseFault_getV (f : FaultCode) (q : Reg) : (s.raiseFault f).getV q = s.getV q := rfl
@[simp] theorem setScreen_getV (g : Screen) (q : Reg) : (s.setScreen g).getV q = s.getV q := rfl
@[simp] theorem poke_getV (a : Nat) (b : Byte) (q : Reg) : (s.poke a b).getV q = s.getV q := rfl
@[simp] theorem tickTimers_getV (q : Reg) : (s.tickTimers).getV q = s.getV q := rfl
@[simp] theorem memWrite_getV (a : Nat) (b : Byte) (q : Reg) : (s.memWrite a b).getV q = s.getV q := by simp [State.getV]
@[simp] theorem postIncrementI_getV (x : Reg) (q : Reg) : (s.postIncrementI x).getV q = s.getV q := by simp [State.getV]
@[simp] theorem writeBytes_getV (a : Nat) (bs : List Byte) (q : Reg) : (s.writeBytes a bs).getV q = s.getV q := by simp [State.getV]
@[simp] theorem pokeBytes_getV (a : Nat) (bs : List Byte) (q : Reg) : (s.pokeBytes a bs).getV q = s.getV q := by simp [State.getV]

@[simp] theorem setV_memRead (r : Reg) (b : Byte) (p : Nat) : (s.setV r b).memRead p = s.memRead p := rfl
@[simp] theorem setPc_memRead (w : Word) (p : Nat) : (s.setPc w).memRead p = s.memRead p := rfl
@[simp] theorem advance_memRead (p : Nat) : (s.advance).memRead p = s.memRead p := rfl
@[simp] theorem skipIf_memRead (c : Bool) (p : Nat) : (s.skipIf c).memRead p = s.memRead p := rfl
@[simp] theorem setI_memRead (w : Word) (p : Nat) : (s.setI w).memRead p = s.memRead p := rfl
@[simp] theorem setIr_memRead (w : Word) (p : Nat) : (s.setIr w).memRead p = s.memRead p := rfl
@[simp] theorem setDt_memRead (b : Byte) (p : Nat) : (s.setDt b).memRead p = s.memRead p := rfl
@[simp] theorem setSt_memRead (b : Byte) (p : Nat) : (s.setSt b).memRead p = s.memRead p := rfl
@[simp] theorem raiseFault_memRead (f : FaultCode) (p : Nat) : (s.raiseFault f).memRead p = s.memRead p := rfl
@[simp] theorem setScreen_memRead (g : Screen) (p : Nat) : (s.setScreen g).memRead p = s.memRead p := rfl
@[simp] theorem tickTimers_memRead (p : Nat) : (s.tickTimers).memRead p = s.memRead p := rfl
@[simp] theorem loadRegs_memRead (x : Reg) (p : Nat) : (s.loadRegs x).memRead p = s.memRead p := by simp [State.memRead]
@[simp] theorem setResultThenFlag_memRead (x : Reg) (r f : Byte) (p : Nat) : (s.setResultThenFlag x r f).memRead p = s.memRead p := rfl
@[simp] theorem postIncrementI_memRead (x : Reg) (p : Nat) : (s.postIncrementI x).memRead p = s.memRead p := by simp [State.memRead]

@[simp] theorem setV_fbCell (r : Reg) (b : Byte) (k : Nat) : (s.setV r b).fbCell k = s.fbCell k := rfl
@[simp] theorem setPc_fbCell (w : Word) (k : Nat) : (s.setPc w).fbCell k = s.fbCell k := rfl
@[simp] theorem advance_fbCell (k : Nat) : (s.advance).fbCell k = s.fbCell k := rfl
@[simp] theorem skipIf_fbCell (c : Bool) (k : Nat) : (s.skipIf c).fbCell k = s.fbCell k := rfl
@[simp] theorem setI_fbCell (w : Word) (k : Nat) : (s.setI w).fbCell k = s.fbCell k := rfl
@[simp] theorem setIr_fbCell (w : Word) (k : Nat) : (s.setIr w).fbCell k = s.fbCell k := rfl
@[simp] theorem setDt_fbCell (b : Byte) (k : Nat) : (s.setDt b).fbCell k = s.fbCell k := rfl
@[simp] theorem setSt_fbCell (b : Byte) (k : Nat) : (s.setSt b).fbCell k = s.fbCell k := rfl
@[simp] theorem raiseFault_fbCell (f : FaultCode) (k : Nat) : (s.raiseFault f).fbCell k = s.fbCell k := rfl
@[simp] theorem poke_fbCell (a : Nat) (b : Byte) (k : Nat) : (s.poke a b).fbCell k = s.fbCell k := rfl
@[simp] theorem tickTimers_fbCell (k : Nat) : (s.tickTimers).fbCell k = s.fbCell k := rfl
@[simp] theorem loadRegs_fbCell (x : Reg) (k : Nat) : (s.loadRegs x).fbCell k = s.fbCell k := by simp [State.fbCell]
@[simp] theorem setResultThenFlag_fbCell (x : Reg) (r f : Byte) (k : Nat) : (s.setResultThenFlag x r f).fbCell k = s.fbCell k := rfl
@[simp] theorem memWrite_fbCell (a : Nat) (b : Byte) (k : Nat) : (s.memWrite a b).fbCell k = s.fbCell k := by simp [State.fbCell]
@[simp] theorem postIncrementI_fbCell (x : Reg) (k : Nat) : (s.postIncrementI x).fbCell k = s.fbCell k := by simp [State.fbCell]
@[simp] theorem writeBytes_fbCell (a : Nat) (bs : List Byte) (k : Nat) : (s.writeBytes a bs).fbCell k = s.fbCell k := by simp [State.fbCell]
@[simp] theorem pokeBytes_fbCell (a : Nat) (bs : List Byte) (k : Nat) : (s.pokeBytes a bs).fbCell k = s.fbCell k := by simp [State.fbCell]

@[simp] theorem setV_keyDown (r : Reg) (b : Byte) (k : Nibble) : (s.setV r b).keyDown k = s.keyDown k := rfl
@[simp] theorem setPc_keyDown (w : Word) (k : Nibble) : (s.setPc w).keyDown k = s.keyDown k := rfl
@[simp] theorem advance_keyDown (k : Nibble) : (s.advance).keyDown k = s.keyDown k := rfl
@[simp] theorem skipIf_keyDown (c : Bool) (k : Nibble) : (s.skipIf c).keyDown k = s.keyDown k := rfl
@[simp] theorem setI_keyDown (w : Word) (k : Nibble) : (s.setI w).keyDown k = s.keyDown k := rfl
@[simp] theorem setIr_keyDown (w : Word) (k : Nibble) : (s.setIr w).keyDown k = s.keyDown k := rfl
@[simp] theorem setDt_keyDown (b : Byte) (k : Nibble) : (s.setDt b).keyDown k = s.keyDown k := rfl
@[simp] theorem setSt_keyDown (b : Byte) (k : Nibble) : (s.setSt b).keyDown k = s.keyDown k := rfl
@[simp] theorem raiseFault_keyDown (f : FaultCode) (k : Nibble) : (s.raiseFault f).keyDown k = s.keyDown k := rfl
@[simp] theorem setScreen_keyDown (g : Screen) (k : Nibble) : (s.setScreen g).keyDown k = s.keyDown k := rfl
@[simp] theorem poke_keyDown (a : Nat) (b : Byte) (k : Nibble) : (s.poke a b).keyDown k = s.keyDown k := rfl
@[simp] theorem tickTimers_keyDown (k : Nibble) : (s.tickTimers).keyDown k = s.keyDown k := rfl
@[simp] theorem loadRegs_keyDown (x : Reg) (k : Nibble) : (s.loadRegs x).keyDown k = s.keyDown k := by simp [State.keyDown]
@[simp] theorem setResultThenFlag_keyDown (x : Reg) (r f : Byte) (k : Nibble) : (s.setResultThenFlag x r f).keyDown k = s.keyDown k := rfl
@[simp] theorem memWrite_keyDown (a : Nat) (b : Byte) (k : Nibble) : (s.memWrite a b).keyDown k = s.keyDown k := by simp [State.keyDown]
@[simp] theorem postIncrementI_keyDown (x : Reg) (k : Nibble) : (s.postIncrementI x).keyDown k = s.keyDown k := by simp [State.keyDown]
@[simp] theorem writeBytes_keyDown (a : Nat) (bs : List Byte) (k : Nibble) : (s.writeBytes a bs).keyDown k = s.keyDown k := by simp [State.keyDown]
@[simp] theorem pokeBytes_keyDown (a : Nat) (bs : List Byte) (k : Nibble) : (s.pokeBytes a bs).keyDown k = s.keyDown k := by simp [State.keyDown]

@[simp] theorem setV_dataAddr (r : Reg) (b : Byte) (k : Nat) : (s.setV r b).dataAddr k = s.dataAddr k := rfl
@[simp] theorem setPc_dataAddr (w : Word) (k : Nat) : (s.setPc w).dataAddr k = s.dataAddr k := rfl
@[simp] theorem advance_dataAddr (k : Nat) : (s.advance).dataAddr k = s.dataAddr k := rfl
@[simp] theorem skipIf_dataAddr (c : Bool) (k : Nat) : (s.skipIf c).dataAddr k = s.dataAddr k := rfl
@[simp] theorem setIr_dataAddr (w : Word) (k : Nat) : (s.setIr w).dataAddr k = s.dataAddr k := rfl
@[simp] theorem setDt_dataAddr (b : Byte) (k : Nat) : (s.setDt b).dataAddr k = s.dataAddr k := rfl
@[simp] theorem setSt_dataAddr (b : Byte) (k : Nat) : (s.setSt b).dataAddr k = s.dataAddr k := rfl
@[simp] theorem raiseFault_dataAddr (f : FaultCode) (k : Nat) : (s.raiseFault f).dataAddr k = s.dataAddr k := rfl
@[simp] theorem setScreen_dataAddr (g : Screen) (k : Nat) : (s.setScreen g).dataAddr k = s.dataAddr k := rfl
@[simp] theorem poke_dataAddr (a : Nat) (b : Byte) (k : Nat) : (s.poke a b).dataAddr k = s.dataAddr k := rfl
@[simp] theorem tickTimers_dataAddr (k : Nat) : (s.tickTimers).dataAddr k = s.dataAddr k := rfl
@[simp] theorem loadRegs_dataAddr (x : Reg) (k : Nat) : (s.loadRegs x).dataAddr k = s.dataAddr k := by simp [State.dataAddr]
@[simp] theorem setResultThenFlag_dataAddr (x : Reg) (r f : Byte) (k : Nat) : (s.setResultThenFlag x r f).dataAddr k = s.dataAddr k := rfl
@[simp] theorem memWrite_dataAddr (a : Nat) (b : Byte) (k : Nat) : (s.memWrite a b).dataAddr k = s.dataAddr k := by simp [State.dataAddr]
@[simp] theorem writeBytes_dataAddr (a : Nat) (bs : List Byte) (k : Nat) : (s.writeBytes a bs).dataAddr k = s.dataAddr k := by simp [State.dataAddr]
@[simp] theorem pokeBytes_dataAddr (a : Nat) (bs : List Byte) (k : Nat) : (s.pokeBytes a bs).dataAddr k = s.dataAddr k := by simp [State.dataAddr]

end Sys2Proof.Machine
end

