-- ==== Sys2Proof/Laws/Memory.lean ====
section
/-! SUPPORT. Memory: what a read answers after a store, and that every store keeps the canonical form. -/

namespace Sys2Proof.Machine

/-! ## One byte: cells -/

theorem lookupCell_insertCell (m : Memory) (a b : Nat) (v : Byte) :
    lookupCell (insertCell m a v) b = if b = a then some v else lookupCell m b := by
  induction m with
  | nil => simp [insertCell, lookupCell, eq_comm]
  | cons e m ih =>
    obtain ⟨k, d⟩ := e
    simp only [insertCell]
    split
    · simp [lookupCell, eq_comm]
    · split
      · subst_vars; simp only [lookupCell]; grind
      · simp only [lookupCell, ih]; grind

theorem lookupCell_eraseCell (m : Memory) (a b : Nat) :
    lookupCell (eraseCell m a) b = if b = a then none else lookupCell m b := by
  induction m with
  | nil => simp [eraseCell, lookupCell]
  | cons e m ih =>
    obtain ⟨k, d⟩ := e
    simp only [eraseCell, List.filter_cons] at ih ⊢
    split <;> simp only [lookupCell, ih] <;> grind

/-- A byte read is the last one stored at that address; every other address reads as before. -/
@[simp] theorem loadByte_storeByte (c : Config) (m : Memory) (a b : Nat) (v : Byte) :
    loadByte c (storeByte c m a v) b = if b = a then v else loadByte c m b := by
  simp only [loadByte, storeByte]
  split
  · rw [lookupCell_eraseCell]; split <;> simp_all
  · rw [lookupCell_insertCell]; split <;> simp_all

@[simp] theorem loadByte_nil (c : Config) (a : Nat) : loadByte c [] a = unlisted c a := rfl

/-! ## The canonical form -/

theorem risingFrom_mono {lo hi : Nat} {m : Memory} (h : risingFrom hi m = true) (hle : lo ≤ hi) :
    risingFrom lo m = true := by
  cases m with
  | nil => rfl
  | cons e m => simp only [risingFrom, Bool.and_eq_true, decide_eq_true_eq] at h ⊢; exact ⟨by omega, h.2⟩

theorem risingFrom_filter (p : Host.Cell → Bool) {lo : Nat} {m : Memory} (h : risingFrom lo m = true) :
    risingFrom lo (m.filter p) = true := by
  induction m generalizing lo with
  | nil => rfl
  | cons e m ih =>
    simp only [risingFrom, Bool.and_eq_true, decide_eq_true_eq] at h
    simp only [List.filter_cons]
    split
    · simpa [risingFrom, h.1] using ih h.2
    · exact risingFrom_mono (ih h.2) (by omega)

theorem risingFrom_insertCell {lo : Nat} {m : Memory} (h : risingFrom lo m = true) (a : Nat) (ha : lo ≤ a) (v : Byte) :
    risingFrom lo (insertCell m a v) = true := by
  induction m generalizing lo with
  | nil => simp [insertCell, risingFrom, ha]
  | cons e m ih =>
    obtain ⟨k, d⟩ := e
    simp only [risingFrom, Bool.and_eq_true, decide_eq_true_eq] at h
    simp only [insertCell]
    split
    · simp only [risingFrom, Bool.and_eq_true, decide_eq_true_eq]; exact ⟨ha, by omega, h.2⟩
    · split
      · subst_vars; simp [risingFrom, h]
      · simp only [risingFrom, Bool.and_eq_true, decide_eq_true_eq]; exact ⟨h.1, ih h.2 (by omega)⟩

theorem mem_insertCell {m : Memory} {a : Nat} {v : Byte} {e : Host.Cell} (h : e ∈ insertCell m a v) :
    e = (a, v) ∨ e ∈ m := by
  induction m with
  | nil => simpa [insertCell] using h
  | cons f m ih => simp only [insertCell] at h; grind

@[simp] theorem wf_nil (c : Config) : Memory.wf c [] = true := rfl

/-- Every store keeps the canonical form. -/
theorem storeByte_wf {c : Config} {m : Memory} (h : Memory.wf c m = true) (a : Nat) (ha : a < 4096) (v : Byte) :
    Memory.wf c (storeByte c m a v) = true := by
  simp only [Memory.wf, Bool.and_eq_true, List.all_eq_true, decide_eq_true_eq, bne_iff_ne] at h ⊢
  simp only [storeByte]
  split
  · exact ⟨risingFrom_filter _ h.1, fun e he => h.2 e (List.mem_of_mem_filter he)⟩
  · refine ⟨risingFrom_insertCell h.1 a (Nat.zero_le a) v, fun e he => ?_⟩
    rcases mem_insertCell he with rfl | he
    · exact ⟨ha, by assumption⟩
    · exact h.2 e he

/-! ## Reads and writes of a state -/

/-- Two addresses equal modulo 4096 are one byte of memory. -/
theorem memRead_mod (s : State) (a : Nat) : s.memRead (a % 4096) = s.memRead a := by simp [State.memRead]

/-- Memory is read through the parameters and the cells alone. -/
theorem memRead_congr {s t : State} (hc : t.cfg = s.cfg) (hm : t.mem = s.mem) (a : Nat) : t.memRead a = s.memRead a := by
  simp [State.memRead, hc, hm]

theorem fetch_congr {s t : State} (hc : t.cfg = s.cfg) (hm : t.mem = s.mem) (hp : t.pc = s.pc) : t.fetch = s.fetch := by
  simp [State.fetch, hp, memRead_congr hc hm]

theorem memRead_poke (s : State) (a b : Nat) (v : Byte) :
    (s.poke a v).memRead b = if b % 4096 = a % 4096 then v else s.memRead b := by simp [State.memRead]

/-- `MemWrite` then `MemRead` (R62, R64, R68). -/
theorem memRead_memWrite (s : State) (a b : Nat) (v : Byte) :
    (s.memWrite a v).memRead b =
      if b % 4096 = a % 4096 ∧ ¬ (s.cfg.pFontWp = true ∧ a % 4096 < 80) then v else s.memRead b := by
  unfold State.memWrite
  split
  · rename_i h; simp only [Bool.and_eq_true, decide_eq_true_eq] at h; simp [h]
  · rename_i h; simp only [Bool.and_eq_true, decide_eq_true_eq] at h; rw [memRead_poke]; simp [h]

theorem poke_wf {s : State} (h : Memory.wf s.cfg s.mem = true) (a : Nat) (v : Byte) :
    Memory.wf (s.poke a v).cfg (s.poke a v).mem = true :=
  storeByte_wf h _ (Nat.mod_lt a (by decide)) v

theorem memWrite_wf {s : State} (h : Memory.wf s.cfg s.mem = true) (a : Nat) (v : Byte) :
    Memory.wf s.cfg (s.memWrite a v).mem = true := by
  unfold State.memWrite
  split
  · exact h
  · exact poke_wf h a v

theorem writeBytes_wf {s : State} (h : Memory.wf s.cfg s.mem = true) (a : Nat) (bs : List Byte) :
    Memory.wf s.cfg (s.writeBytes a bs).mem = true := by
  induction bs generalizing s a with
  | nil => exact h
  | cons b bs ih => simpa [State.writeBytes] using ih (s := s.memWrite a b) (by simpa using memWrite_wf h a b) (a + 1)

theorem pokeBytes_wf {s : State} (h : Memory.wf s.cfg s.mem = true) (a : Nat) (bs : List Byte) :
    Memory.wf s.cfg (s.pokeBytes a bs).mem = true := by
  induction bs generalizing s a with
  | nil => exact h
  | cons b bs ih => simpa [State.pokeBytes] using ih (s := s.poke a b) (by simpa using poke_wf h a b) (a + 1)

/-- An address that none of the written bytes falls on, or a write-protected one, reads as before. -/
theorem memRead_writeBytes_other (s : State) (a b : Nat) (bs : List Byte)
    (h : (∀ k, k < bs.length → b % 4096 ≠ (a + k) % 4096) ∨ (s.cfg.pFontWp = true ∧ b % 4096 < 80)) :
    (s.writeBytes a bs).memRead b = s.memRead b := by
  induction bs generalizing s a with
  | nil => rfl
  | cons v bs ih =>
    simp only [State.writeBytes]
    rw [ih, memRead_memWrite, if_neg]
    · rcases h with h | h
      · have := h 0 (by simp); simp only [Nat.add_zero] at this; tauto
      · rintro ⟨h1, h2⟩; rw [h1] at h; exact h2 h
    · rcases h with h | h
      · left; intro k hk; have := h (k + 1) (by simpa using hk); rwa [Nat.add_right_comm, Nat.add_assoc a k 1] at *
      · right; simpa using h

/-- At most 4096 bytes written from `a` on are read back, each at its own address, unless write-protected (R69). -/
theorem memRead_writeBytes_at (s : State) (a : Nat) (bs : List Byte) (hlen : bs.length ≤ 4096) (k : Nat)
    (hk : k < bs.length) (hwp : ¬ (s.cfg.pFontWp = true ∧ (a + k) % 4096 < 80)) :
    (s.writeBytes a bs).memRead (a + k) = bs[k] := by
  induction bs generalizing s a k with
  | nil => simp at hk
  | cons v bs ih =>
    simp only [List.length_cons] at hlen hk
    simp only [State.writeBytes]
    cases k with
    | zero =>
      rw [memRead_writeBytes_other, memRead_memWrite, if_pos ⟨rfl, hwp⟩]
      · rfl
      · left; intro j hj; omega
    | succ k =>
      have := ih (s.memWrite a v) (a + 1) (by omega) k (by omega)
        (by simpa [Nat.add_right_comm, Nat.add_assoc] using hwp)
      simpa [Nat.add_right_comm, Nat.add_assoc] using this

/-- The loader's bytes: what each address below 4096 reads as after them. -/
theorem memRead_pokeBytes (s : State) (a b : Nat) (bs : List Byte) (hfit : a + bs.length ≤ 4096) (hb : b < 4096) :
    (s.pokeBytes a bs).memRead b = if h : a ≤ b ∧ b - a < bs.length then bs[b - a]'h.2 else s.memRead b := by
  induction bs generalizing s a with
  | nil => simp [State.pokeBytes]
  | cons v bs ih =>
    simp only [List.length_cons] at hfit
    simp only [State.pokeBytes]
    rw [ih _ _ (by omega), memRead_poke]
    rcases Nat.lt_trichotomy b a with h | h | h
    · rw [dif_neg (by omega), dif_neg (by omega), if_neg (by omega)]
    · subst h; simp
    · by_cases hin : b - a < bs.length + 1
      · rw [dif_pos ⟨by omega, by omega⟩, dif_pos ⟨by omega, by simpa using hin⟩]
        have : b - a = (b - (a + 1)) + 1 := by omega
        simp [this]
      · rw [dif_neg (by omega), dif_neg (by simp; omega), if_neg (by omega)]

end Sys2Proof.Machine
end

