-- ==== Sys2Proof/Laws/Registers.lean ====
section
/-! SUPPORT. Registers, flags and PC: what each shared operation answers. -/

namespace Sys2Proof.Machine

theorem getV_setV (s : State) (x r : Reg) (b : Byte) : (s.setV x b).getV r = if r = x then b else s.getV r := by
  simp only [State.getV, State.setV, Vector.getElem_set, Fin.ext_iff, eq_comm (a := r.val)]

@[simp] theorem getV_setV_same (s : State) (x : Reg) (b : Byte) : (s.setV x b).getV x = b := by simp [getV_setV]

theorem getV_congr {s t : State} (h : t.v = s.v) (r : Reg) : t.getV r = s.getV r := by simp [State.getV, h]

/-- The flag is the last write: VF ends as the flag, VX as the result unless X is F (R170). -/
theorem getV_setResultThenFlag (s : State) (x r : Reg) (result flag : Byte) :
    (s.setResultThenFlag x result flag).getV r = if r = vF then flag else if r = x then result else s.getV r := by
  simp [State.setResultThenFlag, getV_setV]

theorem getV_loadRegs (s : State) (x r : Reg) :
    (s.loadRegs x).getV r = if r.val ≤ x.val then s.memRead (s.dataAddr r.val) else s.getV r := by
  simp [State.loadRegs, State.loadedRegs, State.getV]

theorem flagByte_toNat (c : Bool) : (flagByte c).toNat = if c then 1 else 0 := by cases c <;> rfl

theorem carryFlag_toNat (a b : Byte) : (carryFlag a b).toNat = if 255 < a.toNat + b.toNat then 1 else 0 := by
  simp [carryFlag, flagByte_toNat]

theorem noBorrowFlag_toNat (a b : Byte) : (noBorrowFlag a b).toNat = if b.toNat ≤ a.toNat then 1 else 0 := by
  simp [noBorrowFlag, flagByte_toNat]

/-- The bit shifted out to the right is the value's parity. -/
theorem shrFlag_toNat (a : Byte) : (shrFlag a).toNat = a.toNat % 2 := by
  rw [shrFlag, flagByte_toNat, BitVec.getLsbD, Nat.testBit_zero]; split <;> simp_all

/-- The bit shifted out to the left is 1 exactly when the value is 128 or more. -/
theorem shlFlag_toNat (a : Byte) : (shlFlag a).toNat = a.toNat / 128 := by
  have h := a.isLt
  rw [shlFlag, flagByte_toNat, BitVec.getLsbD, Nat.testBit_eq_decide_div_mod_eq]
  split <;> simp_all <;> omega

@[simp] theorem regsUpTo_length (s : State) (x : Reg) : (s.regsUpTo x).length = x.val + 1 := by
  simp [State.regsUpTo]

theorem regsUpTo_getElem (s : State) (x : Reg) (k : Nat) (h : k < (s.regsUpTo x).length) :
    (s.regsUpTo x)[k] = s.getV ⟨k, by simp at h; omega⟩ := by
  simp [State.regsUpTo, State.getV]

/-- I after FX55 and FX65 (R205, R206). -/
theorem postIncrementI_i_toNat (s : State) (x : Reg) :
    (s.postIncrementI x).i.toNat = if s.cfg.pIncI then (s.i.toNat + x.val + 1) % 65536 else s.i.toNat := by
  unfold State.postIncrementI
  split
  · simp [BitVec.toNat_add]; omega
  · rfl

theorem countDown_toNat (t : Byte) : (countDown t).toNat = t.toNat - 1 := by
  unfold countDown
  split
  · simp_all
  · rename_i h
    have : t.toNat ≠ 0 := fun hz => h (BitVec.eq_of_toNat_eq (by simpa using hz))
    have := t.isLt
    simp [BitVec.toNat_sub]; omega

theorem countDown_eq_ofNat (t : Byte) : countDown t = BitVec.ofNat 8 (t.toNat - 1) := by
  have := t.isLt
  apply BitVec.eq_of_toNat_eq; rw [countDown_toNat, BitVec.toNat_ofNat]; omega

/-! ## The call stack: all that CALL and RET can do -/

theorem callTo_of_lt {s : State} (h : s.sp.val < 16) (target : Word) :
    s.callTo target =
      { s with stack := s.stack.set s.sp.val s.pc, sp := ⟨s.sp.val + 1, by omega⟩, pc := target } := by
  simp [State.callTo, h]

theorem callTo_of_full {s : State} (h : s.sp.val = 16) (target : Word) :
    s.callTo target = s.raiseFault .stackOverflow := by simp [State.callTo, h]

theorem returnFromCall_of_pos {s : State} (h : 0 < s.sp.val) :
    s.returnFromCall =
      { s with sp := ⟨s.sp.val - 1, by omega⟩, pc := s.stack[s.sp.val - 1]'(by omega) + 2#16 } := by
  simp [State.returnFromCall, Nat.ne_of_gt h]

theorem returnFromCall_of_empty {s : State} (h : s.sp.val = 0) :
    s.returnFromCall = s.raiseFault .stackUnderflow := by simp [State.returnFromCall, h]

theorem callTo_cases (s : State) (target : Word) :
    (∃ h : s.sp.val < 16, s.callTo target =
      { s with stack := s.stack.set s.sp.val s.pc, sp := ⟨s.sp.val + 1, by omega⟩, pc := target }) ∨
    (s.sp.val = 16 ∧ s.callTo target = s.raiseFault .stackOverflow) := by
  by_cases h : s.sp.val < 16
  · exact .inl ⟨h, callTo_of_lt h target⟩
  · exact .inr ⟨by omega, callTo_of_full (by omega) target⟩

theorem returnFromCall_cases (s : State) :
    (∃ h : 0 < s.sp.val, s.returnFromCall =
      { s with sp := ⟨s.sp.val - 1, by omega⟩, pc := s.stack[s.sp.val - 1]'(by omega) + 2#16 }) ∨
    (s.sp.val = 0 ∧ s.returnFromCall = s.raiseFault .stackUnderflow) := by
  by_cases h : s.sp.val = 0
  · exact .inr ⟨h, returnFromCall_of_empty h⟩
  · exact .inl ⟨by omega, returnFromCall_of_pos (by omega)⟩

end Sys2Proof.Machine
end

