-- ==== Sys2Proof/Laws/Cycle.lean ====
section
/-! SUPPORT. What the inputs of a cycle touch, and the two forms of a step: halted and running. -/

namespace Sys2Proof.Machine

/-- The events of a cycle write only the keypad and DIRTY. -/
theorem performAll_shape (s : State) (es : List HostEvent) : ∃ key lastKey pending dirty,
    s.performAll es = { s with key := key, lastKey := lastKey, inputPending := pending, dirty := dirty } := by
  induction es generalizing s with
  | nil => exact ⟨_, _, _, _, rfl⟩
  | cons e es ih =>
    obtain ⟨_, _, _, _, h⟩ := ih (s.perform e)
    cases e <;> exact ⟨_, _, _, _, h⟩

/-- The inputs of a cycle write only the keypad, DIRTY and the model's own fields. -/
theorem takeInput_shape (s : State) : ∃ key lastKey pending dirty rnd rndIndex script,
    s.takeInput = { s with key := key, lastKey := lastKey, inputPending := pending, dirty := dirty, rnd := rnd,
                           rndIndex := rndIndex, script := script } := by
  rcases hs : s.script with _ | ⟨c, cs⟩
  · exact ⟨_, _, _, _, _, _, _, by rw [State.takeInput, hs]⟩
  · obtain ⟨_, _, _, _, h⟩ := performAll_shape s c.events
    exact ⟨_, _, _, _, _, _, _, by rw [State.takeInput, hs]; dsimp only; rw [h]⟩

section
variable (s : State)

@[simp] theorem takeInput_cfg : s.takeInput.cfg = s.cfg := by
  obtain ⟨_, _, _, _, _, _, _, h⟩ := takeInput_shape s; rw [h]
@[simp] theorem takeInput_mem : s.takeInput.mem = s.mem := by
  obtain ⟨_, _, _, _, _, _, _, h⟩ := takeInput_shape s; rw [h]
@[simp] theorem takeInput_v : s.takeInput.v = s.v := by
  obtain ⟨_, _, _, _, _, _, _, h⟩ := takeInput_shape s; rw [h]
@[simp] theorem takeInput_i : s.takeInput.i = s.i := by
  obtain ⟨_, _, _, _, _, _, _, h⟩ := takeInput_shape s; rw [h]
@[simp] theorem takeInput_pc : s.takeInput.pc = s.pc := by
  obtain ⟨_, _, _, _, _, _, _, h⟩ := takeInput_shape s; rw [h]
@[simp] theorem takeInput_sp : s.takeInput.sp = s.sp := by
  obtain ⟨_, _, _, _, _, _, _, h⟩ := takeInput_shape s; rw [h]
@[simp] theorem takeInput_stack : s.takeInput.stack = s.stack := by
  obtain ⟨_, _, _, _, _, _, _, h⟩ := takeInput_shape s; rw [h]
@[simp] theorem takeInput_dt : s.takeInput.dt = s.dt := by
  obtain ⟨_, _, _, _, _, _, _, h⟩ := takeInput_shape s; rw [h]
@[simp] theorem takeInput_st : s.takeInput.st = s.st := by
  obtain ⟨_, _, _, _, _, _, _, h⟩ := takeInput_shape s; rw [h]
@[simp] theorem takeInput_fb : s.takeInput.fb = s.fb := by
  obtain ⟨_, _, _, _, _, _, _, h⟩ := takeInput_shape s; rw [h]
@[simp] theorem takeInput_fault : s.takeInput.fault = s.fault := by
  obtain ⟨_, _, _, _, _, _, _, h⟩ := takeInput_shape s; rw [h]
@[simp] theorem takeInput_ir : s.takeInput.ir = s.ir := by
  obtain ⟨_, _, _, _, _, _, _, h⟩ := takeInput_shape s; rw [h]

@[simp] theorem takeInput_memRead (a : Nat) : s.takeInput.memRead a = s.memRead a := memRead_congr (by simp) (by simp) a
@[simp] theorem takeInput_getV (r : Reg) : s.takeInput.getV r = s.getV r := getV_congr (by simp) r
@[simp] theorem takeInput_fbCell (k : Nat) : s.takeInput.fbCell k = s.fbCell k := by simp [State.fbCell]
@[simp] theorem takeInput_fetch : s.takeInput.fetch = s.fetch := fetch_congr (by simp) (by simp) (by simp)

end

/-! ## What a cycle does: halted, or the decoded instruction and the end of the cycle -/

theorem endOfCycle_of_running {s : State} (h : s.fault = .none) : endOfCycle s = s.tickTimers := if_pos h
theorem endOfCycle_of_faulted {s : State} (h : s.fault ≠ .none) : endOfCycle s = s := if_neg h

theorem runCycle_of_halted {s : State} (h : s.fault ≠ .none) : runCycle s = .next s := if_neg h

/-- A running core loads IR with the word at PC, runs what it decodes to and ends the cycle. -/
theorem runCycle_of_running {s : State} (h : s.fault = .none) :
    runCycle s = Result.finish (runDecoded (decode s.cfg.pFx1e s.fetch) (s.setIr s.fetch)) := if_pos h

theorem runCycle_of_instr {s t : State} {i : Instr} (h : s.fault = .none) (hd : decode s.cfg.pFx1e s.fetch = .instr i)
    (he : exec i (s.setIr s.fetch) = .next t) : runCycle s = .next (endOfCycle t) := by
  rw [runCycle_of_running h, hd]; simp only [runDecoded, he]; rfl

theorem runCycle_of_undef {s : State} {w : Word} (h : s.fault = .none) (hd : decode s.cfg.pFx1e s.fetch = .undef w) :
    runCycle s = .next (endOfCycle (s.setIr s.fetch).advance) := by
  rw [runCycle_of_running h, hd]; rfl

/-- A halted core only takes the inputs of the cycle. -/
theorem step_of_halted {s : State} (h : s.fault ≠ .none) : step s = .next s.takeInput :=
  runCycle_of_halted (by simpa using h)

theorem step_of_instr {s t : State} {i : Instr} (h : s.fault = .none) (hd : decode s.cfg.pFx1e s.fetch = .instr i)
    (he : exec i (s.takeInput.setIr s.fetch) = .next t) : step s = .next (endOfCycle t) :=
  runCycle_of_instr (by simpa using h) (by simpa using hd) (by simpa using he)

theorem step_of_undef {s : State} {w : Word} (h : s.fault = .none) (hd : decode s.cfg.pFx1e s.fetch = .undef w) :
    step s = .next (endOfCycle (s.takeInput.setIr s.fetch).advance) := by
  have := runCycle_of_undef (s := s.takeInput) (by simpa using h) (by simpa using hd)
  rw [takeInput_fetch] at this
  exact this

end Sys2Proof.Machine
end

