-- ==== Sys2Proof/Laws/Decode.lean ====
section
/-! SUPPORT. Fields of packed words, masks, and the decoder group by group. -/

namespace Sys2Proof

theorem toNat_append_eq {m n : Nat} (a : BitVec m) (b : BitVec n) :
    (a ++ b).toNat = a.toNat * 2 ^ n + b.toNat := by
  rw [BitVec.toNat_append, ← Nat.shiftLeft_add_eq_or_of_lt b.isLt, Nat.shiftLeft_eq]

theorem wordOfBytes_toNat (hi lo : Byte) : (wordOfBytes hi lo).toNat = 256 * hi.toNat + lo.toNat := by
  simp only [wordOfBytes, toNat_append_eq]; omega

/-- The two bytes of a word put together again. -/
@[simp] theorem wordOfBytes_high_low (w : Word) : wordOfBytes (highByte w) (lowByte w) = w := by
  apply BitVec.eq_of_toNat_eq
  have := w.isLt
  simp [wordOfBytes_toNat, highByte, lowByte, Nat.shiftRight_eq_div_pow]; omega

@[simp] theorem highByte_wordOfBytes (hi lo : Byte) : highByte (wordOfBytes hi lo) = hi := by
  apply BitVec.eq_of_toNat_eq
  have := hi.isLt; have := lo.isLt
  simp [wordOfBytes_toNat, highByte, Nat.shiftRight_eq_div_pow]; omega

@[simp] theorem lowByte_wordOfBytes (hi lo : Byte) : lowByte (wordOfBytes hi lo) = lo := by
  apply BitVec.eq_of_toNat_eq
  have := hi.isLt; have := lo.isLt
  simp [wordOfBytes_toNat, lowByte]; omega

@[simp] theorem regBits_toNat (r : Reg) : (regBits r).toNat = r.val := rfl

theorem packA_toNat (o : Nibble) (nnn : Addr12) : (packA o nnn).toNat = o.toNat * 4096 + nnn.toNat := by
  simp only [packA, toNat_append_eq]; omega

theorem packXK_toNat (o : Nibble) (x : Reg) (nn : Byte) :
    (packXK o x nn).toNat = o.toNat * 4096 + x.val * 256 + nn.toNat := by
  simp only [packXK, toNat_append_eq, regBits_toNat]; omega

theorem packXYN_toNat (o : Nibble) (x y : Reg) (n : Nibble) :
    (packXYN o x y n).toNat = o.toNat * 4096 + x.val * 256 + y.val * 16 + n.toNat := by
  simp only [packXYN, toNat_append_eq, regBits_toNat]; omega

/-! Each field of R91 as a number. -/

theorem fieldO_toNat (w : Word) : (fieldO w).toNat = w.toNat / 4096 := by
  have := w.isLt
  simp [fieldO, Nat.shiftRight_eq_div_pow]; omega
theorem fieldX_val (w : Word) : (fieldX w).val = w.toNat / 256 % 16 := by
  simp [fieldX, Nat.shiftRight_eq_div_pow]
theorem fieldY_val (w : Word) : (fieldY w).val = w.toNat / 16 % 16 := by
  simp [fieldY, Nat.shiftRight_eq_div_pow]
theorem fieldN_toNat (w : Word) : (fieldN w).toNat = w.toNat % 16 := by simp [fieldN]
theorem fieldNN_toNat (w : Word) : (fieldNN w).toNat = w.toNat % 256 := by simp [fieldNN]
theorem fieldNNN_toNat (w : Word) : (fieldNNN w).toNat = w.toNat % 4096 := by simp [fieldNNN]

/-! Fields of packed words. -/

@[simp] theorem fieldO_packA (o : Nibble) (nnn : Addr12) : fieldO (packA o nnn) = o := by
  apply BitVec.eq_of_toNat_eq; have := nnn.isLt; rw [fieldO_toNat, packA_toNat]; omega
@[simp] theorem fieldNNN_packA (o : Nibble) (nnn : Addr12) : fieldNNN (packA o nnn) = nnn := by
  apply BitVec.eq_of_toNat_eq; have := nnn.isLt; rw [fieldNNN_toNat, packA_toNat]; omega
@[simp] theorem fieldO_packXK (o : Nibble) (x : Reg) (nn : Byte) : fieldO (packXK o x nn) = o := by
  apply BitVec.eq_of_toNat_eq; have := nn.isLt; rw [fieldO_toNat, packXK_toNat]; omega
@[simp] theorem fieldX_packXK (o : Nibble) (x : Reg) (nn : Byte) : fieldX (packXK o x nn) = x := by
  apply Fin.ext; have := nn.isLt; rw [fieldX_val, packXK_toNat]; omega
@[simp] theorem fieldNN_packXK (o : Nibble) (x : Reg) (nn : Byte) : fieldNN (packXK o x nn) = nn := by
  apply BitVec.eq_of_toNat_eq; have := nn.isLt; rw [fieldNN_toNat, packXK_toNat]; omega
@[simp] theorem fieldO_packXYN (o : Nibble) (x y : Reg) (n : Nibble) : fieldO (packXYN o x y n) = o := by
  apply BitVec.eq_of_toNat_eq; have := n.isLt; rw [fieldO_toNat, packXYN_toNat]; omega
@[simp] theorem fieldX_packXYN (o : Nibble) (x y : Reg) (n : Nibble) : fieldX (packXYN o x y n) = x := by
  apply Fin.ext; have := n.isLt; rw [fieldX_val, packXYN_toNat]; omega
@[simp] theorem fieldY_packXYN (o : Nibble) (x y : Reg) (n : Nibble) : fieldY (packXYN o x y n) = y := by
  apply Fin.ext; have := n.isLt; rw [fieldY_val, packXYN_toNat]; omega
@[simp] theorem fieldN_packXYN (o : Nibble) (x y : Reg) (n : Nibble) : fieldN (packXYN o x y n) = n := by
  apply BitVec.eq_of_toNat_eq; have := n.isLt; rw [fieldN_toNat, packXYN_toNat]; omega

/-! A word put together from its fields. -/

theorem packA_fields (w : Word) : packA (fieldO w) (fieldNNN w) = w := by
  apply BitVec.eq_of_toNat_eq; have := w.isLt; rw [packA_toNat, fieldO_toNat, fieldNNN_toNat]; omega
theorem packXK_fields (w : Word) : packXK (fieldO w) (fieldX w) (fieldNN w) = w := by
  apply BitVec.eq_of_toNat_eq; have := w.isLt; rw [packXK_toNat, fieldO_toNat, fieldX_val, fieldNN_toNat]; omega
theorem packXYN_fields (w : Word) : packXYN (fieldO w) (fieldX w) (fieldY w) (fieldN w) = w := by
  apply BitVec.eq_of_toNat_eq; have := w.isLt
  rw [packXYN_toNat, fieldO_toNat, fieldX_val, fieldY_val, fieldN_toNat]; omega

/-! The masks of R95: what they leave of a packed word, and what a match says of the fields. -/

theorem packA_mask_F000 (o : Nibble) (nnn : Addr12) : packA o nnn &&& 0xF000#16 = packA o 0#12 :=
  (BitVec.and_append (x₁ := o) (x₂ := 0xF#4) (y₁ := nnn) (y₂ := 0x000#12)).trans (by
    rw [show (0xF#4 : Nibble) = BitVec.allOnes 4 from rfl, BitVec.and_allOnes, BitVec.and_zero]; rfl)

theorem packXK_and (o x' : Nibble) (x : Reg) (nn nn' : Byte) :
    packXK o x nn &&& ((0xF#4 ++ x') ++ nn') = (o ++ (regBits x &&& x')) ++ (nn &&& nn') := by
  refine (BitVec.and_append (x₁ := o ++ regBits x) (x₂ := 0xF#4 ++ x') (y₁ := nn) (y₂ := nn')).trans ?_
  rw [BitVec.and_append, show (0xF#4 : Nibble) = BitVec.allOnes 4 from rfl, BitVec.and_allOnes]

theorem packXK_mask_F000 (o : Nibble) (x : Reg) (nn : Byte) : packXK o x nn &&& 0xF000#16 = packXK o 0 0#8 :=
  (packXK_and o 0x0#4 x nn 0x00#8).trans (by rw [BitVec.and_zero, BitVec.and_zero]; rfl)

theorem packXK_mask_F0FF (o : Nibble) (x : Reg) (nn : Byte) : packXK o x nn &&& 0xF0FF#16 = packXK o 0 nn :=
  (packXK_and o 0x0#4 x nn 0xFF#8).trans (by
    rw [BitVec.and_zero, show (0xFF#8 : Byte) = BitVec.allOnes 8 from rfl, BitVec.and_allOnes]; rfl)

theorem packXYN_eq_packXK (o : Nibble) (x y : Reg) (n : Nibble) : packXYN o x y n = packXK o x (regBits y ++ n) := rfl

theorem packXYN_mask_F000 (o : Nibble) (x y : Reg) (n : Nibble) : packXYN o x y n &&& 0xF000#16 = packXYN o 0 0 0#4 := by
  rw [packXYN_eq_packXK, packXK_mask_F000]; rfl

theorem packXYN_mask_F00F (o : Nibble) (x y : Reg) (n : Nibble) : packXYN o x y n &&& 0xF00F#16 = packXYN o 0 0 n := by
  rw [packXYN_eq_packXK]
  refine (packXK_and o 0x0#4 x (regBits y ++ n) (0x0#4 ++ 0xF#4)).trans ?_
  rw [BitVec.and_append, BitVec.and_zero, BitVec.and_zero, show (0xF#4 : Nibble) = BitVec.allOnes 4 from rfl,
    BitVec.and_allOnes]
  rfl

theorem extract_of_mask {w m p : Word} (h : w &&& m = p) (k len : Nat) :
    w.extractLsb' k len &&& m.extractLsb' k len = p.extractLsb' k len := by
  rw [← BitVec.extractLsb'_and, h]

/-- A mask that keeps the leading nibble fixes O. -/
theorem fieldO_of_mask {w m p : Word} {k : Nibble} (h : w &&& m = p) (hm : fieldO m = 0xF#4) (hp : fieldO p = k) :
    fieldO w = k := by
  subst hp
  have h1 : fieldO w &&& fieldO m = fieldO p := extract_of_mask h 12 4
  rwa [hm, show (0xF#4 : Nibble) = BitVec.allOnes 4 from rfl, BitVec.and_allOnes] at h1

/-- A mask that keeps the trailing nibble fixes N. -/
theorem fieldN_of_mask {w m p : Word} {k : Nibble} (h : w &&& m = p) (hm : fieldN m = 0xF#4) (hp : fieldN p = k) :
    fieldN w = k := by
  subst hp
  have h1 : fieldN w &&& fieldN m = fieldN p := extract_of_mask h 0 4
  rwa [hm, show (0xF#4 : Nibble) = BitVec.allOnes 4 from rfl, BitVec.and_allOnes] at h1

/-- A mask that keeps the trailing byte fixes NN. -/
theorem fieldNN_of_mask {w m p : Word} {k : Byte} (h : w &&& m = p) (hm : fieldNN m = 0xFF#8) (hp : fieldNN p = k) :
    fieldNN w = k := by
  subst hp
  have h1 : fieldNN w &&& fieldNN m = fieldNN p := extract_of_mask h 0 8
  rwa [hm, show (0xFF#8 : Byte) = BitVec.allOnes 8 from rfl, BitVec.and_allOnes] at h1

theorem word_of_full_mask {w p : Word} (h : w &&& 0xFFFF#16 = p) : w = p := by
  rwa [show (0xFFFF#16 : Word) = BitVec.allOnes 16 from rfl, BitVec.and_allOnes] at h

/-! The decoder by leading nibble: one lemma per group of R96 to R101, so that no proof unfolds `decode`. -/

section Groups
variable (fx1e : Bool) {w : Word}

theorem decode_of_O0 (h : fieldO w = 0x0#4) : decode fx1e w =
    decodeGroup0 w := by simp [decode, h]
theorem decode_of_O1 (h : fieldO w = 0x1#4) : decode fx1e w =
    .instr (.jpNnn (fieldNNN w)) := by simp [decode, h]
theorem decode_of_O2 (h : fieldO w = 0x2#4) : decode fx1e w =
    .instr (.callNnn (fieldNNN w)) := by simp [decode, h]
theorem decode_of_O3 (h : fieldO w = 0x3#4) : decode fx1e w =
    .instr (.seVxNn (fieldX w) (fieldNN w)) := by simp [decode, h]
theorem decode_of_O4 (h : fieldO w = 0x4#4) : decode fx1e w =
    .instr (.sneVxNn (fieldX w) (fieldNN w)) := by simp [decode, h]
theorem decode_of_O5 (h : fieldO w = 0x5#4) : decode fx1e w =
    (if fieldN w = 0x0#4 then .instr (.seVxVy (fieldX w) (fieldY w)) else .undef w) := by simp [decode, h]
theorem decode_of_O6 (h : fieldO w = 0x6#4) : decode fx1e w =
    .instr (.ldVxNn (fieldX w) (fieldNN w)) := by simp [decode, h]
theorem decode_of_O7 (h : fieldO w = 0x7#4) : decode fx1e w =
    .instr (.addVxNn (fieldX w) (fieldNN w)) := by simp [decode, h]
theorem decode_of_O8 (h : fieldO w = 0x8#4) : decode fx1e w =
    decodeGroup8 w := by simp [decode, h]
theorem decode_of_O9 (h : fieldO w = 0x9#4) : decode fx1e w =
    (if fieldN w = 0x0#4 then .instr (.sneVxVy (fieldX w) (fieldY w)) else .undef w) := by simp [decode, h]
theorem decode_of_OA (h : fieldO w = 0xA#4) : decode fx1e w =
    .instr (.ldINnn (fieldNNN w)) := by simp [decode, h]
theorem decode_of_OB (h : fieldO w = 0xB#4) : decode fx1e w =
    .instr (.jpV0Nnn (fieldNNN w)) := by simp [decode, h]
theorem decode_of_OC (h : fieldO w = 0xC#4) : decode fx1e w =
    .instr (.rndVxNn (fieldX w) (fieldNN w)) := by simp [decode, h]
theorem decode_of_OD (h : fieldO w = 0xD#4) : decode fx1e w =
    .instr (.drwVxVyN (fieldX w) (fieldY w) (fieldN w)) := by simp [decode, h]
theorem decode_of_OE (h : fieldO w = 0xE#4) : decode fx1e w =
    decodeGroupE w := by simp [decode, h]
theorem decode_of_OF (h : fieldO w = 0xF#4) : decode fx1e w =
    decodeGroupF fx1e w := by simp [decode, h]

end Groups

/-- Every leading nibble is one of the sixteen. -/
theorem nibble_cases (o : Nibble) :
    o = 0x0#4 ∨ o = 0x1#4 ∨ o = 0x2#4 ∨ o = 0x3#4 ∨ o = 0x4#4 ∨ o = 0x5#4 ∨ o = 0x6#4 ∨ o = 0x7#4 ∨
    o = 0x8#4 ∨ o = 0x9#4 ∨ o = 0xA#4 ∨ o = 0xB#4 ∨ o = 0xC#4 ∨ o = 0xD#4 ∨ o = 0xE#4 ∨ o = 0xF#4 := by
  revert o; decide

/-! Each group answers an instruction or the undefined word itself (R102). -/

theorem decodeGroup0_total (w : Word) : decodeGroup0 w = .undef w ∨ ∃ i, decodeGroup0 w = .instr i := by
  unfold decodeGroup0; split_ifs <;> simp

theorem decodeGroup8_total (w : Word) : decodeGroup8 w = .undef w ∨ ∃ i, decodeGroup8 w = .instr i := by
  unfold decodeGroup8; dsimp only; split_ifs <;> simp

theorem decodeGroupE_total (w : Word) : decodeGroupE w = .undef w ∨ ∃ i, decodeGroupE w = .instr i := by
  unfold decodeGroupE; dsimp only; split_ifs <;> simp

theorem decodeGroupF_total (fx1e : Bool) (w : Word) :
    decodeGroupF fx1e w = .undef w ∨ ∃ i, decodeGroupF fx1e w = .instr i := by
  unfold decodeGroupF; dsimp only; split_ifs <;> simp

end Sys2Proof
end

