-- ==== Sys2Proof/Laws/Screen.lean ====
section
/-! SUPPORT. The draw engine cell by cell: a draw flips the cells its set bits cover and collects their collisions. -/

namespace Sys2Proof.Machine

theorem cellAt_mod (fb : Screen) (x y : Nat) : cellAt fb (x % 64) (y % 32) = cellAt fb x y := by simp [cellAt]

/-- Flipping one cell flips it and leaves every other cell. -/
theorem cellAt_flipCell (fb : Screen) (x y x' y' : Nat) :
    cellAt (flipCell fb x y) x' y' = (cellAt fb x' y' ^^ decide (x' % 64 = x % 64 ∧ y' % 32 = y % 32)) := by
  simp only [cellAt, flipCell, Vector.getElem_set]
  have hx : x % 64 < 64 := Nat.mod_lt _ (by decide)
  split
  · rename_i h
    simp only [BitVec.getLsbD_xor, BitVec.getLsbD_twoPow]
    simp [h, hx, eq_comm]
  · rename_i h
    simp [Ne.symm h]

/-- Two screens with the same cells are the same screen. -/
theorem screen_ext {f g : Screen} (h : ∀ x y, x < 64 → y < 32 → cellAt f x y = cellAt g x y) : f = g := by
  apply Vector.ext
  intro y hy
  apply BitVec.eq_of_getLsbD_eq
  intro x hx
  simpa [cellAt, Nat.mod_eq_of_lt hx, Nat.mod_eq_of_lt hy] using h x y hx hy

/-- The screen read by `FB[k]` is the screen read by cells. -/
theorem fbCell_index (s : State) {x y : Nat} (hx : x < 64) : s.fbCell (y * 64 + x) = cellAt s.fb x y := by
  simp only [State.fbCell]; congr 1 <;> omega

theorem fbCell_congr {s t : State} (h : t.fb = s.fb) (k : Nat) : t.fbCell k = s.fbCell k := by simp [State.fbCell, h]

/-! ## One row

`drawCols ox y row m` is the loop of `drawRow` stopped after its first `m` columns. -/

/-- The first `m` columns of a row drawn. -/
def drawCols (ox y : Nat) (row : Byte) (m : Nat) (acc : Screen × Bool) : Screen × Bool :=
  (List.range m).foldl (drawPixel ox y row) acc

theorem drawCols_succ (ox y : Nat) (row : Byte) (m : Nat) (acc : Screen × Bool) :
    drawCols ox y row (m + 1) acc = drawPixel ox y row (drawCols ox y row m acc) m := by
  simp [drawCols, List.range_succ]

theorem drawRow_eq_drawCols (ox y : Nat) (row : Byte) (acc : Screen × Bool) :
    drawRow ox y row acc = drawCols ox y row 8 acc := rfl

/-- A set bit among the first `m` columns of the row falls on cell (cx, cy). -/
def rowCovers (ox y : Nat) (row : Byte) (m cx cy : Nat) : Bool :=
  decide (cy % 32 = y % 32) && (decide ((cx + (64 - ox % 64)) % 64 < m) && spriteBit row ((cx + (64 - ox % 64)) % 64))

theorem rowCovers_succ (ox y : Nat) (row : Byte) (m cx cy : Nat) (hm : m < 64) :
    rowCovers ox y row (m + 1) cx cy =
      (rowCovers ox y row m cx cy || (decide (cx % 64 = (ox + m) % 64 ∧ cy % 32 = y % 32) && spriteBit row m)) := by
  have hiff : cx % 64 = (ox + m) % 64 ↔ (cx + (64 - ox % 64)) % 64 = m := by omega
  simp only [rowCovers, hiff]
  generalize (cx + (64 - ox % 64)) % 64 = d
  rcases Nat.lt_trichotomy d m with h | h | h
  · simp [h, Nat.ne_of_lt h, Nat.lt_succ_of_lt h]
  · subst h; simp
  · simp [show ¬ d < m by omega, show ¬ d < m + 1 by omega, show d ≠ m by omega]

/-- The columns not yet drawn are not covered: the next pixel's cell still has the value it had before the row. -/
theorem rowCovers_next (ox y : Nat) (row : Byte) (m : Nat) (hm : m < 64) : rowCovers ox y row m (ox + m) y = false := by
  have : (ox + m + (64 - ox % 64)) % 64 = m := by omega
  simp [rowCovers, this]

theorem cellAt_drawCols (ox y : Nat) (row : Byte) (m : Nat) (hm : m ≤ 8) (acc : Screen × Bool) (cx cy : Nat) :
    cellAt (drawCols ox y row m acc).1 cx cy = (cellAt acc.1 cx cy ^^ rowCovers ox y row m cx cy) := by
  induction m with
  | zero => simp [drawCols, rowCovers]
  | succ m ih =>
    rw [drawCols_succ, drawPixel, rowCovers_succ _ _ _ _ _ _ (by omega)]
    have hnext := rowCovers_next ox y row m (by omega)
    split
    · rename_i hb
      rw [cellAt_flipCell, ih (by omega), hb]
      by_cases hc : cx % 64 = (ox + m) % 64 ∧ cy % 32 = y % 32
      · have : rowCovers ox y row m cx cy = false := by
          rw [← hnext]; simp only [rowCovers, hc.2]
          rw [show (cx + (64 - ox % 64)) % 64 = (ox + m + (64 - ox % 64)) % 64 by omega]
        simp [hc, this]
      · simp [hc]
    · rename_i hb
      rw [ih (by omega)]; simp [hb]

/-- The collision of a row: it was set before, or a covered cell was 1. -/
theorem collided_drawCols (ox y : Nat) (row : Byte) (m : Nat) (hm : m ≤ 8) (acc : Screen × Bool) :
    (drawCols ox y row m acc).2 = true ↔
      acc.2 = true ∨ ∃ c, c < m ∧ spriteBit row c = true ∧ cellAt acc.1 (ox + c) y = true := by
  induction m with
  | zero => simp [drawCols]
  | succ m ih =>
    rw [drawCols_succ, drawPixel]
    split
    · rename_i hb
      simp only [Bool.or_eq_true, ih (by omega), cellAt_drawCols _ _ _ _ (show m ≤ 8 by omega),
        rowCovers_next _ _ _ _ (show m < 64 by omega), Bool.xor_false]
      constructor
      · rintro ((h | ⟨c, hc, h⟩) | h)
        · exact .inl h
        · exact .inr ⟨c, by omega, h⟩
        · exact .inr ⟨m, by omega, hb, h⟩
      · rintro (h | ⟨c, hc, h1, h2⟩)
        · exact .inl (.inl h)
        · rcases Nat.lt_succ_iff_lt_or_eq.mp hc with hlt | rfl
          · exact .inl (.inr ⟨c, hlt, h1, h2⟩)
          · exact .inr h2
    · rename_i hb
      rw [ih (by omega)]
      constructor
      · rintro (h | ⟨c, hc, h⟩)
        · exact .inl h
        · exact .inr ⟨c, by omega, h⟩
      · rintro (h | ⟨c, hc, h1, h2⟩)
        · exact .inl h
        · rcases Nat.lt_succ_iff_lt_or_eq.mp hc with hlt | rfl
          · exact .inr ⟨c, hlt, h1, h2⟩
          · exact absurd h1 hb

/-! ## The sprite -/

/-- A set bit of some row falls on cell (cx, cy), the first row lying at height `y`. -/
def rowsCover (ox : Nat) : Nat → List Byte → Nat → Nat → Bool
  | _, [], _, _ => false
  | y, row :: rows, cx, cy => rowCovers ox y row 8 cx cy || rowsCover ox (y + 1) rows cx cy

theorem rowsCover_eq (ox y : Nat) (rows : List Byte) (hlen : rows.length ≤ 31) (cx cy : Nat) :
    rowsCover ox y rows cx cy =
      (decide ((cy + (32 - y % 32)) % 32 < rows.length) &&
        (decide ((cx + (64 - ox % 64)) % 64 < 8) &&
          spriteBit (rows.getD ((cy + (32 - y % 32)) % 32) 0#8) ((cx + (64 - ox % 64)) % 64))) := by
  induction rows generalizing y with
  | nil => simp [rowsCover]
  | cons row rows ih =>
    simp only [List.length_cons] at hlen
    rw [rowsCover, ih _ (by omega)]
    simp only [rowCovers, List.length_cons]
    generalize (cx + (64 - ox % 64)) % 64 = d
    by_cases h0 : cy % 32 = y % 32
    · have h1 : (cy + (32 - y % 32)) % 32 = 0 := by omega
      have h2 : ¬ (cy + (32 - (y + 1) % 32)) % 32 < rows.length := by omega
      simp [h0, h1, h2]
    · have h1 : (cy + (32 - y % 32)) % 32 = (cy + (32 - (y + 1) % 32)) % 32 + 1 := by omega
      simp [h0, h1]

/-- Rows below the first are not on the first row's cells. -/
theorem rowsCover_first (ox y : Nat) (rows : List Byte) (hlen : rows.length ≤ 30) (cx : Nat) :
    rowsCover ox (y + 1) rows cx y = false := by
  rw [rowsCover_eq _ _ _ (by omega)]
  simp [show ¬ (y + (32 - (y + 1) % 32)) % 32 < rows.length by omega]

theorem cellAt_drawRows (ox y : Nat) (rows : List Byte) (hlen : rows.length ≤ 31) (acc : Screen × Bool) (cx cy : Nat) :
    cellAt (drawRows ox y rows acc).1 cx cy = (cellAt acc.1 cx cy ^^ rowsCover ox y rows cx cy) := by
  induction rows generalizing y acc with
  | nil => simp [drawRows, rowsCover]
  | cons row rows ih =>
    simp only [List.length_cons] at hlen
    rw [drawRows, ih _ (by omega), drawRow_eq_drawCols, cellAt_drawCols _ _ _ _ (by omega), rowsCover]
    by_cases h0 : cy % 32 = y % 32
    · have : rowsCover ox (y + 1) rows cx cy = false := by
        have := rowsCover_first ox y rows (by omega) cx
        rw [rowsCover_eq _ _ _ (by omega)] at this ⊢
        rwa [show (cy + (32 - (y + 1) % 32)) % 32 = (y + (32 - (y + 1) % 32)) % 32 by omega]
      simp [this]
    · simp [rowCovers, h0]

/-- The collision output of a draw: some covered cell was 1 before it (R242). -/
theorem collided_drawRows (ox y : Nat) (rows : List Byte) (hlen : rows.length ≤ 31) (acc : Screen × Bool) :
    (drawRows ox y rows acc).2 = true ↔
      acc.2 = true ∨ ∃ r c, r < rows.length ∧ c < 8 ∧ spriteBit (rows.getD r 0#8) c = true ∧
        cellAt acc.1 (ox + c) (y + r) = true := by
  induction rows generalizing y acc with
  | nil => simp [drawRows]
  | cons row rows ih =>
    simp only [List.length_cons] at hlen
    rw [drawRows, ih _ (by omega), drawRow_eq_drawCols, collided_drawCols _ _ _ _ (by omega)]
    have hcell : ∀ r c, r < rows.length →
        cellAt (drawCols ox y row 8 acc).1 (ox + c) (y + 1 + r) = cellAt acc.1 (ox + c) (y + 1 + r) := fun r c hr => by
      rw [cellAt_drawCols _ _ _ _ (by omega)]
      simp [rowCovers, show ¬ (y + 1 + r) % 32 = y % 32 by omega]
    constructor
    · rintro ((h | ⟨c, hc, h1, h2⟩) | ⟨r, c, hr, hc, h1, h2⟩)
      · exact .inl h
      · exact .inr ⟨0, c, by simp, hc, by simpa using h1, by simpa using h2⟩
      · refine .inr ⟨r + 1, c, by simpa using hr, hc, by simpa using h1, ?_⟩
        rw [hcell r c hr] at h2; rwa [Nat.add_comm r 1, ← Nat.add_assoc]
    · rintro (h | ⟨r, c, hr, hc, h1, h2⟩)
      · exact .inl (.inl h)
      · cases r with
        | zero => exact .inl (.inr ⟨c, hc, by simpa using h1, by simpa using h2⟩)
        | succ r =>
          refine .inr ⟨r, c, by simpa using hr, hc, by simpa using h1, ?_⟩
          rw [hcell r c (by simpa using hr)]; rwa [Nat.add_comm r 1, ← Nat.add_assoc] at h2

end Sys2Proof.Machine
end

