-- ==== Sys2Proof/Laws/Draw.lean ====
section
/-! SUPPORT. The draw of a sprite in the terms of Safety.lean: the rows read and the cells covered. -/

namespace Sys2Proof.Machine

@[simp] theorem readBytes_length (s : State) (a n : Nat) : (s.readBytes a n).length = n := by simp [State.readBytes]

theorem readBytes_getD (s : State) (a n k : Nat) (h : k < n) : (s.readBytes a n).getD k 0#8 = s.memRead (a + k) := by
  simp [State.readBytes, List.getD, h]

/-- A covered cell is one some row and column of the sprite falls on. -/
theorem spriteCovers_iff (s : State) (x y : Reg) (n : Nibble) (cx cy : Nat) :
    spriteCovers s x y n cx cy = true ↔
      rowOffset (s.getV y).toNat cy < n.toNat ∧ colOffset (s.getV x).toNat cx < 8 ∧
        spriteBit (s.memRead (s.dataAddr (rowOffset (s.getV y).toNat cy))) (colOffset (s.getV x).toNat cx) = true := by
  simp only [spriteCovers, Bool.and_eq_true, decide_eq_true_eq, spriteBit, State.dataAddr, and_assoc]

theorem rowsCover_eq_spriteCovers (s : State) (x y : Reg) (n : Nibble) (cx cy : Nat) :
    rowsCover (s.getV x).toNat (s.getV y).toNat (s.readBytes (s.dataAddr 0) n.toNat) cx cy =
      spriteCovers s x y n cx cy := by
  have := n.isLt
  rw [Bool.eq_iff_iff, spriteCovers_iff, rowsCover_eq _ _ _ (by rw [readBytes_length]; omega)]
  simp only [Bool.and_eq_true, decide_eq_true_eq, readBytes_length, rowOffset, colOffset]
  constructor <;> rintro ⟨h1, h2, h3⟩ <;> refine ⟨h1, h2, ?_⟩
  · rw [readBytes_getD _ _ _ _ h1] at h3; simpa [State.dataAddr] using h3
  · rw [readBytes_getD _ _ _ _ h1]; simpa [State.dataAddr] using h3

/-- A draw flips exactly the covered cells. -/
theorem cellAt_drawSprite (s : State) (x y : Reg) (n : Nibble) (cx cy : Nat) :
    cellAt (s.drawSprite x y n).1 cx cy = (cellAt s.fb cx cy ^^ spriteCovers s x y n cx cy) := by
  have := n.isLt
  rw [State.drawSprite, cellAt_drawRows _ _ _ (by rw [readBytes_length]; omega), rowsCover_eq_spriteCovers]

/-- A draw collides exactly when a covered cell was 1. -/
theorem collided_drawSprite (s : State) (x y : Reg) (n : Nibble) :
    (s.drawSprite x y n).2 = true ↔
      ∃ r c, r < n.toNat ∧ c < 8 ∧ spriteBit (s.memRead (s.dataAddr r)) c = true ∧
        cellAt s.fb ((s.getV x).toNat + c) ((s.getV y).toNat + r) = true := by
  have := n.isLt
  rw [State.drawSprite, collided_drawRows _ _ _ (by rw [readBytes_length]; omega)]
  simp only [Bool.false_eq_true, false_or, readBytes_length]
  constructor <;> rintro ⟨r, c, hr, hc, h1, h2⟩ <;> refine ⟨r, c, hr, hc, ?_, h2⟩
  · rw [readBytes_getD _ _ _ _ hr] at h1; simpa [State.dataAddr] using h1
  · rw [readBytes_getD _ _ _ _ hr]; simpa [State.dataAddr] using h1

/-- Row and column offsets undo the wrap of the coordinates. -/
theorem rowOffset_of_add (oy r : Nat) (h : r < 32) : rowOffset oy ((oy + r) % 32) = r := by
  simp only [rowOffset]; omega

theorem colOffset_of_add (ox c : Nat) (h : c < 64) : colOffset ox ((ox + c) % 64) = c := by
  simp only [colOffset]; omega

theorem add_rowOffset (oy cy : Nat) (h : cy < 32) : (oy + rowOffset oy cy) % 32 = cy := by
  simp only [rowOffset]; omega

theorem add_colOffset (ox cx : Nat) (h : cx < 64) : (ox + colOffset ox cx) % 64 = cx := by
  simp only [colOffset]; omega

end Sys2Proof.Machine
end

