-- ==== Sys2Proof/Laws/PerInstr.lean ====
section
/-! SUPPORT. Facts made once per instruction: the word of every instruction matches its row of R95. -/

namespace Sys2Proof.Laws

theorem matches_packA {r : OpcodeRow} {o : Nibble} (nnn : Addr12) (hm : r.mask = 0xF000#16)
    (hp : packA o 0#12 = r.pattern) : r.matches (packA o nnn) = true := by
  simp [OpcodeRow.matches, hm, packA_mask_F000, hp]

theorem matches_packXK {r : OpcodeRow} {o : Nibble} (x : Reg) (nn : Byte) (hm : r.mask = 0xF000#16)
    (hp : packXK o 0 0#8 = r.pattern) : r.matches (packXK o x nn) = true := by
  simp [OpcodeRow.matches, hm, packXK_mask_F000, hp]

theorem matches_packXK_byte {r : OpcodeRow} {o : Nibble} (x : Reg) {nn : Byte} (hm : r.mask = 0xF0FF#16)
    (hp : packXK o 0 nn = r.pattern) : r.matches (packXK o x nn) = true := by
  simp [OpcodeRow.matches, hm, packXK_mask_F0FF, hp]

theorem matches_packXYN {r : OpcodeRow} {o : Nibble} (x y : Reg) (n : Nibble) (hm : r.mask = 0xF000#16)
    (hp : packXYN o 0 0 0#4 = r.pattern) : r.matches (packXYN o x y n) = true := by
  simp [OpcodeRow.matches, hm, packXYN_mask_F000, hp]

theorem matches_packXYN_nibble {r : OpcodeRow} {o : Nibble} (x y : Reg) {n : Nibble} (hm : r.mask = 0xF00F#16)
    (hp : packXYN o 0 0 n = r.pattern) : r.matches (packXYN o x y n) = true := by
  simp [OpcodeRow.matches, hm, packXYN_mask_F00F, hp]

/-- The word of an instruction has its row's bits where the row's mask is set (R95). -/
def EncodingRow.Statement (i : Instr) : Prop := (opcodeRow i).matches (encode i) = true

namespace EncodingRow

theorem cls : Statement .cls := rfl
theorem ret : Statement .ret := rfl
theorem jpNnn (nnn : Addr12) : Statement (.jpNnn nnn) := matches_packA nnn rfl rfl
theorem callNnn (nnn : Addr12) : Statement (.callNnn nnn) := matches_packA nnn rfl rfl
theorem seVxNn (x : Reg) (nn : Byte) : Statement (.seVxNn x nn) := matches_packXK x nn rfl rfl
theorem sneVxNn (x : Reg) (nn : Byte) : Statement (.sneVxNn x nn) := matches_packXK x nn rfl rfl
theorem seVxVy (x y : Reg) : Statement (.seVxVy x y) := matches_packXYN_nibble x y rfl rfl
theorem ldVxNn (x : Reg) (nn : Byte) : Statement (.ldVxNn x nn) := matches_packXK x nn rfl rfl
theorem addVxNn (x : Reg) (nn : Byte) : Statement (.addVxNn x nn) := matches_packXK x nn rfl rfl
theorem ldVxVy (x y : Reg) : Statement (.ldVxVy x y) := matches_packXYN_nibble x y rfl rfl
theorem orVxVy (x y : Reg) : Statement (.orVxVy x y) := matches_packXYN_nibble x y rfl rfl
theorem andVxVy (x y : Reg) : Statement (.andVxVy x y) := matches_packXYN_nibble x y rfl rfl
theorem xorVxVy (x y : Reg) : Statement (.xorVxVy x y) := matches_packXYN_nibble x y rfl rfl
theorem addVxVy (x y : Reg) : Statement (.addVxVy x y) := matches_packXYN_nibble x y rfl rfl
theorem subVxVy (x y : Reg) : Statement (.subVxVy x y) := matches_packXYN_nibble x y rfl rfl
theorem shrVx (x y : Reg) : Statement (.shrVx x y) := matches_packXYN_nibble x y rfl rfl
theorem subnVxVy (x y : Reg) : Statement (.subnVxVy x y) := matches_packXYN_nibble x y rfl rfl
theorem shlVx (x y : Reg) : Statement (.shlVx x y) := matches_packXYN_nibble x y rfl rfl
theorem sneVxVy (x y : Reg) : Statement (.sneVxVy x y) := matches_packXYN_nibble x y rfl rfl
theorem ldINnn (nnn : Addr12) : Statement (.ldINnn nnn) := matches_packA nnn rfl rfl
theorem jpV0Nnn (nnn : Addr12) : Statement (.jpV0Nnn nnn) := matches_packA nnn rfl rfl
theorem rndVxNn (x : Reg) (nn : Byte) : Statement (.rndVxNn x nn) := matches_packXK x nn rfl rfl
theorem drwVxVyN (x y : Reg) (n : Nibble) : Statement (.drwVxVyN x y n) := matches_packXYN x y n rfl rfl
theorem skpVx (x : Reg) : Statement (.skpVx x) := matches_packXK_byte x rfl rfl
theorem sknpVx (x : Reg) : Statement (.sknpVx x) := matches_packXK_byte x rfl rfl
theorem ldVxDt (x : Reg) : Statement (.ldVxDt x) := matches_packXK_byte x rfl rfl
theorem ldVxK (x : Reg) : Statement (.ldVxK x) := matches_packXK_byte x rfl rfl
theorem ldDtVx (x : Reg) : Statement (.ldDtVx x) := matches_packXK_byte x rfl rfl
theorem ldStVx (x : Reg) : Statement (.ldStVx x) := matches_packXK_byte x rfl rfl
theorem addIVx (x : Reg) : Statement (.addIVx x) := matches_packXK_byte x rfl rfl
theorem ldFVx (x : Reg) : Statement (.ldFVx x) := matches_packXK_byte x rfl rfl
theorem ldBVx (x : Reg) : Statement (.ldBVx x) := matches_packXK_byte x rfl rfl
theorem ldMemVx (x : Reg) : Statement (.ldMemVx x) := matches_packXK_byte x rfl rfl
theorem ldVxMem (x : Reg) : Statement (.ldVxMem x) := matches_packXK_byte x rfl rfl

end EncodingRow

end Sys2Proof.Laws
end

