-- ==== Sys2Proof/Tests/Slice0.lean ====
section
/-! SUPPORT. The model's own tests. Expected values come from spec/95_test_vectors.md (named in each docstring) or from
the encodings of R95; the witnesses at the end show that the statements' hypotheses can be met. -/

namespace Sys2Proof.Tests

open Sys2Proof Sys2Proof.Machine

/-! ## Helpers -/

/-- A result that is a next state meeting `p`. -/
def nextMeets (r : Result) (p : State → Bool) : Bool :=
  match r with
  | .next t => p t
  | .fault _ => false
  | .refused _ => false

/-- One step with the word `w` at the PC of `s`. -/
def after (s : State) (w : Word) (p : State → Bool) : Bool := nextMeets (step (s.placeWord w)) p

/-- The reset state. -/
abbrev s0 : State := State.reset

/-- The reset state with two registers set. -/
def regs2 (x : Reg) (a : Byte) (y : Reg) (b : Byte) : State := (s0.setV x a).setV y b

/-- The reset state with I set and bytes stored there. -/
def withBytes (i : Word) (bs : List Byte) : State := (s0.setI i).pokeBytes i.toNat bs

/-- The word at the state's PC is the instruction. -/
def fetches (s : State) (i : Instr) : Bool := decode s.cfg.pFx1e s.fetch == .instr i

/-- The parameters with the three switches set as given. -/
def configWith (incI fx1e fontWp : Bool) : Config :=
  { defaultConfig with pIncI := incI, pFx1e := fx1e, pFontWp := fontWp }

/-! ## Well-formedness: the one check refuses an ill-formed term -/

theorem test_wellFormed_refuses_fx1e : (Instr.addIVx 2).wellFormed (configWith true false false) = false := by decide
theorem test_wellFormed_admits_fx1e : (Instr.addIVx 2).wellFormed (configWith true true false) = true := by decide

/-! ## Decoding: words written out from R95 -/

theorem test_decode_control_flow :
    decode true 0x00E0#16 = .instr .cls ∧ decode true 0x00EE#16 = .instr .ret ∧
    decode true 0x1ABC#16 = .instr (.jpNnn 0xABC#12) ∧ decode true 0x2ABC#16 = .instr (.callNnn 0xABC#12) ∧
    decode true 0xBFFF#16 = .instr (.jpV0Nnn 0xFFF#12) ∧ decode true 0x3342#16 = .instr (.seVxNn 3 0x42#8) ∧
    decode true 0x4342#16 = .instr (.sneVxNn 3 0x42#8) ∧ decode true 0x5120#16 = .instr (.seVxVy 1 2) ∧
    decode true 0x9120#16 = .instr (.sneVxVy 1 2) := by decide

theorem test_decode_immediate :
    decode true 0x6A9C#16 = .instr (.ldVxNn 10 0x9C#8) ∧ decode true 0x7001#16 = .instr (.addVxNn 0 1#8) := by decide

theorem test_decode_arithmetic :
    decode true 0x8120#16 = .instr (.ldVxVy 1 2) ∧ decode true 0x8121#16 = .instr (.orVxVy 1 2) ∧
    decode true 0x8122#16 = .instr (.andVxVy 1 2) ∧ decode true 0x8123#16 = .instr (.xorVxVy 1 2) ∧
    decode true 0x8124#16 = .instr (.addVxVy 1 2) ∧ decode true 0x8125#16 = .instr (.subVxVy 1 2) ∧
    decode true 0x8126#16 = .instr (.shrVx 1 2) ∧ decode true 0x8127#16 = .instr (.subnVxVy 1 2) ∧
    decode true 0x812E#16 = .instr (.shlVx 1 2) := by decide

theorem test_decode_index_memory :
    decode true 0xAFFE#16 = .instr (.ldINnn 0xFFE#12) ∧ decode true 0xF21E#16 = .instr (.addIVx 2) ∧
    decode true 0xF229#16 = .instr (.ldFVx 2) ∧ decode true 0xF333#16 = .instr (.ldBVx 3) ∧
    decode true 0xF155#16 = .instr (.ldMemVx 1) ∧ decode true 0xFF65#16 = .instr (.ldVxMem 15) := by decide

theorem test_decode_random_graphics_keypad_timers :
    decode true 0xC0A5#16 = .instr (.rndVxNn 0 0xA5#8) ∧ decode true 0xD125#16 = .instr (.drwVxVyN 1 2 5#4) ∧
    decode true 0xE59E#16 = .instr (.skpVx 5) ∧ decode true 0xE5A1#16 = .instr (.sknpVx 5) ∧
    decode true 0xF20A#16 = .instr (.ldVxK 2) ∧ decode true 0xF107#16 = .instr (.ldVxDt 1) ∧
    decode true 0xF315#16 = .instr (.ldDtVx 3) ∧ decode true 0xF418#16 = .instr (.ldStVx 4) := by decide

/-- S9, FE6, FE7: words of no row. -/
theorem test_decode_undefined :
    [0x0123, 0x5121, 0x8008, 0x800F, 0xE000, 0xFFFF, 0x9121, 0xE09F, 0xF000, 0xF0FF, 0x0000, 0x0FFF].all
      (fun w => decode true (BitVec.ofNat 16 w) == .undef (BitVec.ofNat 16 w)) = true ∧
    decode false 0xF01E#16 = .undef 0xF01E#16 := by decide

theorem test_decodeTableWord : decodeTableWord 16 0x2ABC = some (.callNnn 0xABC#12) ∧
    decodeTableWord 16 0x5121 = none ∧ decodeTableWord 32 0x10000 = none := by decide

/-- R41's table: the last rows of glyphs E and F. -/
theorem test_font_table : s0.memRead 0x4A = 0x80#8 ∧ s0.memRead 0x4F = 0xF0#8 ∧ s0.memRead 0x30 = 0x10#8 ∧
    s0.memRead 0x32 = 0xF0#8 ∧ s0.memRead 0x36 = 0x90#8 := by decide

/-! ## Fetch and the cycle -/

/-- FE1: a fetch over the end of memory. -/
theorem test_fetch_wraps : nextMeets (step ((withBytes 0x0FFF#16 [0x60]).setPc 0x0FFF#16))
    (fun t => t.ir == 0x60F0#16 && t.getV 0 == 0xF0#8 && t.pc == 0x1001#16) = true := by decide

/-- FE4: a halted cycle. -/
theorem test_halted : nextMeets (step ((s0.setDt 5#8).raiseFault .stackOverflow))
    (fun t => t.dt == 5#8 && t.pc == 0x200#16) = true := by decide

/-- FE6: an undefined word only moves PC (and counts the timers). -/
theorem test_undef : after ((regs2 0 7 15 9).setDt 1#8) 0x8008#16
    (fun t => t.pc == 0x202#16 && t.getV 0 == 7#8 && t.getV 15 == 9#8 && t.dt == 0#8) = true := by decide

/-- The script's events and random byte reach the cycle (R320, R322). -/
theorem test_script :
    after { s0 with script := [⟨[.keyPressEdge 7, .setKey 3 true], 0x5A⟩] } 0xC3FF#16
      (fun t => t.getV 3 == 0x5A#8 && t.inputPending && t.lastKey == 7#4 && t.keyDown 3 && t.script == []) = true := by
  decide

/-! ## Control flow -/

/-- CF1. -/
theorem test_cls : after { s0 with fb := flipCell s0.fb 5 0 } 0x00E0#16
    (fun t => t.fb == s0.fb && t.dirty && t.pc == 0x202#16) = true := by decide

/-- CF5: the popped address wraps. -/
theorem test_ret : after { s0 with sp := 1, stack := s0.stack.set 0 0xFFFE } 0x00EE#16
    (fun t => t.pc == 0#16 && t.sp == 0) = true := by decide

/-- CF4. -/
theorem test_ret_underflow : after ((s0.setPc 0x300#16).setDt 9#8) 0x00EE#16
    (fun t => t.readFault == 2#2 && t.pc == 0x300#16 && t.sp == 0 && t.dt == 9#8) = true := by decide

/-- CF6. -/
theorem test_jp : after s0 0x1ABC#16 (fun t => t.pc == 0x0ABC#16) = true := by decide

/-- CF7. -/
theorem test_call : after s0 0x2ABC#16 (fun t => t.stack[0] == 0x200#16 && t.sp == 1 && t.pc == 0x0ABC#16) = true := by
  decide

/-- CF8. -/
theorem test_call_overflow : after { s0 with sp := 16 } 0x2ABC#16
    (fun t => t.readFault == 1#2 && t.pc == 0x200#16 && t.sp == 16 && t.stack == s0.stack) = true := by decide

/-- CF9. -/
theorem test_jp_v0 : after (s0.setV 0 0xFF) 0xBFFF#16 (fun t => t.pc == 0x10FE#16) = true := by decide

/-- CF10: the register is V0 whatever the high digit of NNN. -/
theorem test_jp_v0_not_vx : after (regs2 0 0x10 5 0x99) 0xB300#16 (fun t => t.pc == 0x310#16) = true := by decide

/-- CF11. -/
theorem test_se_imm : after (s0.setV 3 0x42) 0x3342#16 (fun t => t.pc == 0x204#16) = true ∧
    after (s0.setV 3 0x42) 0x3343#16 (fun t => t.pc == 0x202#16) = true := by decide

/-- CF12. -/
theorem test_sne_imm : after (s0.setV 3 0x42) 0x4342#16 (fun t => t.pc == 0x202#16) = true ∧
    after (s0.setV 3 0x42) 0x4343#16 (fun t => t.pc == 0x204#16) = true := by decide

/-- CF13. -/
theorem test_se_reg : after (regs2 1 7 2 7) 0x5120#16 (fun t => t.pc == 0x204#16) = true ∧
    after (regs2 1 7 2 7) 0x5121#16 (fun t => t.pc == 0x202#16) = true := by decide

/-- CF14. -/
theorem test_sne_reg : after (regs2 1 7 2 8) 0x9120#16 (fun t => t.pc == 0x204#16) = true ∧
    after (regs2 1 7 2 8) 0x9110#16 (fun t => t.pc == 0x202#16) = true := by decide

/-! ## Immediate and arithmetic -/

/-- IM1. -/
theorem test_ld_imm : after s0 0x6FAB#16 (fun t => t.getV 15 == 0xAB#8) = true := by decide

/-- IM2. -/
theorem test_add_imm : after (regs2 0 0xFF 15 0x55) 0x7001#16 (fun t => t.getV 0 == 0#8 && t.getV 15 == 0x55#8) = true := by
  decide

/-- AR1. -/
theorem test_ld_reg : after (regs2 0 0x12 1 0x34) 0x8010#16 (fun t => t.getV 0 == 0x34#8) = true := by decide

/-- AR2. -/
theorem test_or : after ((regs2 0 0x0F 1 0xF0).setV 15 0x55) 0x8011#16
    (fun t => t.getV 0 == 0xFF#8 && t.getV 15 == 0x55#8) = true := by decide

/-- AR3. -/
theorem test_and : after ((regs2 0 0xF0 1 0x3C).setV 15 0x55) 0x8012#16
    (fun t => t.getV 0 == 0x30#8 && t.getV 15 == 0x55#8) = true := by decide

/-- AR5. -/
theorem test_xor : after (regs2 15 0xAA 1 0xFF) 0x8F13#16 (fun t => t.getV 15 == 0x55#8) = true := by decide

/-- AR6. -/
theorem test_add_carry : after (regs2 0 0xFF 1 1) 0x8014#16 (fun t => t.getV 0 == 0#8 && t.getV 15 == 1#8) = true := by
  decide

/-- AR9: the flag overwrites the result. -/
theorem test_add_vf_dest : after (regs2 15 0xFF 1 1) 0x8F14#16 (fun t => t.getV 15 == 1#8) = true := by decide

/-- AR12, AR13. -/
theorem test_sub : after (regs2 0 7 1 7) 0x8015#16 (fun t => t.getV 0 == 0#8 && t.getV 15 == 1#8) = true ∧
    after (regs2 0 0 1 1) 0x8015#16 (fun t => t.getV 0 == 0xFF#8 && t.getV 15 == 0#8) = true := by decide

/-- AR14. -/
theorem test_sub_vf_dest : after (regs2 15 3 1 5) 0x8F15#16 (fun t => t.getV 15 == 0#8) = true := by decide

/-- AR17, AR15. -/
theorem test_shr : after (regs2 0 4 1 0xFF) 0x8016#16 (fun t => t.getV 0 == 2#8 && t.getV 15 == 0#8) = true ∧
    after (s0.setV 0 1) 0x8006#16 (fun t => t.getV 0 == 0#8 && t.getV 15 == 1#8) = true := by decide

/-- AR19, AR20. -/
theorem test_subn : after (regs2 0 5 1 10) 0x8017#16 (fun t => t.getV 0 == 5#8 && t.getV 15 == 1#8) = true ∧
    after (regs2 0 10 1 5) 0x8017#16 (fun t => t.getV 0 == 251#8 && t.getV 15 == 0#8) = true := by decide

/-- AR22, AR24. -/
theorem test_shl : after (s0.setV 0 0x80) 0x800E#16 (fun t => t.getV 0 == 0#8 && t.getV 15 == 1#8) = true ∧
    after (s0.setV 0 0x06) 0x800E#16 (fun t => t.getV 0 == 0x0C#8 && t.getV 15 == 0#8) = true := by decide

/-! ## Index, memory, random -/

/-- IX1. -/
theorem test_ld_i : after s0 0xAFFF#16 (fun t => t.i == 0x0FFF#16) = true := by decide

/-- IX2. -/
theorem test_add_i : after ((regs2 0 2 15 7).setI 0xFFFF#16) 0xF01E#16
    (fun t => t.i == 1#16 && t.getV 15 == 7#8) = true := by decide

/-- FE7: without `P_FX1E` the same word is a no-op. -/
theorem test_add_i_absent : after { (s0.setV 0 5).setI 0x300#16 with cfg := configWith true false false } 0xF01E#16
    (fun t => t.i == 0x300#16 && t.pc == 0x202#16) = true := by decide

/-- IX3, IX4. -/
theorem test_ld_f : after (s0.setV 0 0x0F) 0xF029#16 (fun t => t.i == 0x004B#16) = true ∧
    after (s0.setV 0 0xFF) 0xF029#16 (fun t => t.i == 0x04FB#16) = true := by decide

/-- IX8: the three bytes wrap at the end of memory. -/
theorem test_bcd_wraps : after ((s0.setV 0 123).setI 0x0FFF#16) 0xF033#16
    (fun t => t.memRead 0xFFF == 1#8 && t.memRead 0 == 2#8 && t.memRead 1 == 3#8 && t.memRead 2 == 0x90#8) = true := by
  decide

/-- IX9. -/
theorem test_dump : after ((s0.setV 0 0xAA).setI 0x300#16) 0xF055#16
    (fun t => t.memRead 0x300 == 0xAA#8 && t.memRead 0x301 == 0#8 && t.i == 0x301#16) = true := by decide

/-- IX13: the protected font. -/
theorem test_dump_font_protected : after { s0.setV 0 0x12 with cfg := configWith true true true } 0xF055#16
    (fun t => t.memRead 0 == 0xF0#8 && t.i == 1#16) = true := by decide

/-- IX11: VF is loaded too. -/
theorem test_load : after (withBytes 0x300#16 ((List.range 16).map (fun k => BitVec.ofNat 8 (0x90 + k)))) 0xFF65#16
    (fun t => t.getV 0 == 0x90#8 && t.getV 7 == 0x97#8 && t.getV 15 == 0x9F#8 && t.i == 0x310#16) = true := by decide

/-- IX12. -/
theorem test_load_wraps : after (withBytes 0x0FFF#16 [0x11]) 0xF165#16
    (fun t => t.getV 0 == 0x11#8 && t.getV 1 == 0xF0#8 && t.getV 2 == 0#8 && t.i == 0x1001#16) = true := by decide

/-- RN1. -/
theorem test_rnd : after { s0 with script := [⟨[], 0xFF⟩] } 0xC0A5#16 (fun t => t.getV 0 == 0xA5#8) = true := by decide

/-! ## Graphics, keypad, timers -/

/-- GR1: a sprite over the corner. -/
theorem test_draw_wraps : after ((withBytes 0x300#16 [0xC0]).setV 0 63 |>.setV 1 31) 0xD011#16
    (fun t => t.fbCell 2047 && t.fbCell 1984 && !t.fbCell 0 && t.getV 15 == 0#8 && t.dirty) = true := by decide

/-- GR3: a collision. -/
theorem test_draw_collides : after { withBytes 0x300#16 [0x80] with fb := flipCell s0.fb 0 0 } 0xD011#16
    (fun t => !t.fbCell 0 && t.getV 15 == 1#8) = true := by decide

/-- KP1. -/
theorem test_skp : after (({ s0 with key := s0.key.set 10 true } : State).setV 0 0x1A) 0xE09E#16
    (fun t => t.pc == 0x204#16) = true := by decide

/-- KP2. -/
theorem test_sknp : after (s0.setV 0 3) 0xE09E#16 (fun t => t.pc == 0x202#16) = true ∧
    after (s0.setV 0 3) 0xE0A1#16 (fun t => t.pc == 0x204#16) = true := by decide

/-- KP3. -/
theorem test_key_waits : after (s0.setDt 2#8) 0xF20A#16 (fun t => t.pc == 0x200#16 && t.dt == 1#8) = true := by decide

/-- KP4. -/
theorem test_key_taken : after { s0 with inputPending := true, lastKey := 0xF } 0xFF0A#16
    (fun t => t.getV 15 == 0x0F#8 && t.pc == 0x202#16 && t.inputPending) = true := by decide

/-- TM1. -/
theorem test_read_dt : after (s0.setDt 5#8) 0xF107#16 (fun t => t.getV 1 == 5#8 && t.dt == 4#8) = true := by decide

/-- TM3 and S7's first cycle. -/
theorem test_write_dt : after s0 0xF015#16 (fun t => t.dt == 0#8) = true ∧
    after (s0.setV 0 3) 0xF015#16 (fun t => t.dt == 2#8) = true := by decide

/-- TM4, TM5. -/
theorem test_write_st : after (s0.setV 4 1) 0xF418#16 (fun t => t.st == 0#8) = true ∧
    after (s0.setV 4 0x10) 0xF418#16 (fun t => t.st == 0x0F#8) = true := by decide

/-! ## Witnesses: for every statement with hypotheses, a state and operands that meet them

`witness_<Name>` is for `Obligations.<Name>`. Where a statement has several clauses, each is met, at the ends of its
range. -/

/-- The longest ROM that loads, and both ends of the four ranges of memory. -/
theorem witness_LoadPlacesFontAndRom :
    (List.replicate 3584 (0#8 : Byte)).length ≤ 3584 ∧
    nextMeets (State.load defaultConfig [0xAB, 0xCD]) (fun t =>
      t.memRead 0 == 0xF0#8 && t.memRead 79 == 0xF0#8 && t.memRead 80 == 0#8 && t.memRead 0x1FF == 0#8 &&
      t.memRead 0x200 == 0xAB#8 && t.memRead 0x201 == 0xCD#8 && t.memRead 0x202 == 0#8 && t.memRead 4095 == 0#8) = true :=
  ⟨by rw [List.length_replicate], by decide⟩

/-- The first byte and the last byte of the longest ROM. -/
theorem witness_LoadPlacesFontAndRom_last : ((s0.pokeBytes 0x200 [1]).poke 0xFFF 7).memRead 0xFFF = 7#8 ∧
    ((s0.pokeBytes 0x200 [1]).poke 0xFFF 7).memRead 0x200 = 1#8 := by decide

theorem witness_OversizedRomIsALoadError : 3584 < (List.replicate 3585 (0#8 : Byte)).length := by
  rw [List.length_replicate]; decide

/-- A byte at its own address, at that address 4096 higher, next to it, and on both sides of the protected area's end. -/
theorem witness_MemoryReadsTheLastWrite :
    (s0.memWrite 0xFFF 7).memRead 0x1FFF = 7#8 ∧ (s0.memWrite 0xFFF 7).memRead 0 = 0xF0#8 ∧
    (({ s0 with cfg := configWith true true true } : State).memWrite 79 7).memRead 79 = 0xF0#8 ∧
    (({ s0 with cfg := configWith true true true } : State).memWrite 80 7).memRead 80 = 7#8 := by decide

theorem witness_DecodeOfEncodeIsTheInstruction : (Instr.addIVx 15).wellFormed defaultConfig = true ∧
    (Instr.jpNnn 0xFFF#12).wellFormed (configWith true false true) = true := by decide

theorem witness_EncodeOfDecodeIsTheWord : decode defaultConfig.pFx1e 0xFF65#16 = .instr (.ldVxMem 15) := by decide

/-- A word of the last row, the one row that depends on a parameter, two equal rows, and a word of no row. -/
theorem witness_DecodeAgreesWithTheOpcodeMap :
    decode defaultConfig.pFx1e 0xFF65#16 = .instr (.ldVxMem 15) ∧ opcodeRows.length = 34 ∧
    (opcodeRow (.ldVxMem 15)).matches 0xFF65#16 = true ∧ (opcodeRow .cls).matches 0x00E0#16 = true ∧
    (opcodeRow (.addIVx 0)).matches 0xF01E#16 = true ∧ (rowIndex (.addIVx 0)).val = 29 ∧
    (configWith true false false).pFx1e = false ∧ decode false 0xF01E#16 = .undef 0xF01E#16 := by decide

theorem witness_FetchIsBigEndian : s0.cfg.pFontWp = false ∧
    ((s0.memWrite 0x200 0x12).memWrite 0x201 0x34).fetch = 0x1234#16 := by decide

/-- With an empty script and with an entry in it, for an instruction that raises no fault and one that does. -/
theorem witness_StepRunsTheDecodedInstruction : s0.script = [] ∧
    ({ s0 with script := [⟨[.keyPressEdge 7], 5⟩] } : State).script = ⟨[.keyPressEdge 7], 5⟩ :: [] ∧
    (s0.placeWord 0x6A9C).fault = .none ∧ fetches (s0.placeWord 0x6A9C) (.ldVxNn 10 0x9C#8) = true ∧
    nextMeets (exec (.ldVxNn 10 0x9C#8) { (s0.placeWord 0x6A9C).takeInput with ir := 0x6A9C })
      (fun t => t.fault == .none) = true ∧
    fetches (s0.placeWord 0x00EE) .ret = true ∧
    nextMeets (exec .ret { (s0.placeWord 0x00EE).takeInput with ir := 0x00EE })
      (fun t => t.fault == .stackUnderflow) = true := by decide

theorem witness_UndefinedWordIsANoOp : (s0.placeWord 0x0123).fault = .none ∧
    decode (s0.placeWord 0x0123).cfg.pFx1e (s0.placeWord 0x0123).fetch = .undef 0x0123#16 := by decide

/-- A cycle of another instruction, one that writes each timer, and one that faults. -/
theorem witness_TimersCountOncePerCycle : s0.fault = .none ∧ fetches (s0.placeWord 0x00E0) .cls = true ∧
    fetches (s0.placeWord 0xF015) (.ldDtVx 0) = true ∧ fetches (s0.placeWord 0xF418) (.ldStVx 4) = true ∧
    after s0 0x00E0 (fun t => t.fault == .none) = true ∧ after s0 0xF015 (fun t => t.fault == .none) = true ∧
    after s0 0xF418 (fun t => t.fault == .none) = true ∧ after s0 0x00EE (fun t => t.fault != .none) = true := by decide

theorem witness_HaltedCycleChangesNothing : (s0.raiseFault .stackOverflow).fault ≠ .none ∧
    (s0.raiseFault .stackUnderflow).fault ≠ .none := by decide

theorem witness_StackOverflowEntryIsPrecise :
    let s := ({ s0 with sp := 16 } : State).placeWord 0x2ABC
    s.fault = .none ∧ s.sp.val = 16 ∧ decode s.cfg.pFx1e s.fetch = .instr (.callNnn 0xABC#12) := by decide

theorem witness_StackUnderflowEntryIsPrecise :
    let s := s0.placeWord 0x00EE
    s.fault = .none ∧ s.sp.val = 0 ∧ decode s.cfg.pFx1e s.fetch = .instr .ret := by decide

/-- Each of the four outcomes, KP3, CF4 and FE4 among them. -/
theorem witness_CycleOutcomeSaysWhatHappened :
    (match (s0.raiseFault .stackOverflow).hostCycle 0 with | .next (_, o) => o == .halted | _ => false) = true ∧
    (match (s0.placeWord 0x00EE).hostCycle 0 with | .next (_, o) => o == .faulted | _ => false) = true ∧
    (match (s0.placeWord 0xF20A).hostCycle 0 with | .next (_, o) => o == .waiting | _ => false) = true ∧
    (match (s0.placeWord 0x6A9C).hostCycle 0 with | .next (_, o) => o == .executed | _ => false) = true := by decide

theorem witness_EveryLoadedStateMeetsTheInvariant :
    nextMeets (State.load defaultConfig [0x60, 0x05]) (fun t => Memory.wf t.cfg t.mem && t.fault == .none) = true := by
  decide

/-- The invariant holds with the core running and in each halted state, and a step answers. -/
theorem witness_StepKeepsTheInvariant :
    s0.Inv ∧ nextMeets (step s0) (fun _ => true) = true ∧
    State.Inv { s0.placeWord 0x00EE with fault := .stackUnderflow, ir := 0x00EE } ∧
    State.Inv { s0.placeWord 0x2ABC with fault := .stackOverflow, sp := 16, ir := 0x2ABC } := by
  refine ⟨⟨by decide, trivial⟩, by decide, ⟨by decide, ?_⟩, ⟨by decide, ?_⟩⟩
  · exact ⟨by decide, by decide, by decide⟩
  · exact ⟨by decide, by decide, by decide⟩

theorem witness_HostMovesKeepTheInvariant :
    nextMeets (s0.moves [.event (.keyPressEdge 3), .cycle 5, .reset [0xF2, 0x0A], .cycle 0]) (fun t => t.pc == 0x200#16) =
      true := by decide

/-- Words of R95 for the encoding clauses (`EncodedBy`) of the statements, and for `AddIndexWrapsWithoutFlag`. -/
theorem witness_EncodedBy :
    (0x00E0#16 &&& 0xFFFF#16 = 0x00E0#16) ∧ (0x1FFF#16 &&& 0xF000#16 = 0x1000#16) ∧
    (0x8FF6#16 &&& 0xF00F#16 = 0x8006#16) ∧ (0xFF65#16 &&& 0xF0FF#16 = 0xF065#16) ∧
    (0xFF1E#16 &&& 0xF0FF#16 = 0xF01E#16) := by decide

/-- `ClsClearsTheScreen`, `HostReadsAnswerTheState`: the last cell. -/
theorem witness_cells : (2047 < 2048) ∧ (63 < 64) ∧ (31 < 32) ∧ s0.fbCell (31 * 64 + 63) = false := by decide

theorem witness_RetResumesAfterTheCall : 0 < ({ s0 with sp := 1 } : State).sp.val ∧
    0 < ({ s0 with sp := 16 } : State).sp.val := by decide

theorem witness_RetOnAnEmptyStackFaults : s0.sp.val = 0 := by decide

theorem witness_CallPushesItsOwnAddress : s0.sp.val < 16 ∧ ({ s0 with sp := 15 } : State).sp.val < 16 := by decide

theorem witness_CallOnAFullStackFaults : ({ s0 with sp := 16 } : State).sp.val = 16 := by decide

/-- The state right after a CALL meets the hypotheses on the state at the RET. -/
theorem witness_CallThenRetRoundTrips : ({ s0 with sp := 15 } : State).sp.val < 16 ∧
    nextMeets (exec (.callNnn 0x210#12) { s0 with sp := 15, pc := 0x204 })
      (fun t => t.sp == 16 && t.stack[15] == 0x204#16) = true := by decide

/-- `ImmediateSkips`, `RegisterSkips`: equal and unequal operands of the four compares. -/
theorem witness_Skips : (s0.setV 3 0x42).getV 3 = 0x42#8 ∧ (s0.setV 3 0x42).getV 3 ≠ 0x43#8 ∧
    (regs2 1 7 2 7).getV 1 = (regs2 1 7 2 7).getV 2 ∧ (regs2 1 7 2 8).getV 1 ≠ (regs2 1 7 2 8).getV 2 := by decide

/-- `AddSetsCarryLast`, `SubtractionsSetNoBorrowLast`, `ShiftsSetTheBitShiftedOut`: a destination that is not VF, and one
that is. -/
theorem witness_FlagLast : (14 : Reg) ≠ vF ∧ ¬ ((15 : Reg) ≠ vF) := by decide

theorem witness_FontAddressIsFiveTimesVx : (15 < 16) ∧ (4 < 5) ∧
    s0.memRead (5 * 15 + 4) = 0xF0#8 ∧ s0.memRead (5 * 0 + 0) = 0xF0#8 := by decide

/-- With the font protected and I = 79 the first digit is not stored and the second is; with I = 4095 they wrap. -/
theorem witness_BcdStoresThreeDigits :
    nextMeets (exec (.ldBVx 0) { (s0.setV 0 123).setI 79 with cfg := configWith true true true })
      (fun t => t.memRead 79 == 0xF0#8 && t.memRead 80 == 2#8 && t.memRead 81 == 3#8 && t.memRead 82 == 0#8) = true ∧
    nextMeets (exec (.ldBVx 0) ((s0.setV 0 123).setI 0xFFF))
      (fun t => t.memRead 0xFFF == 1#8 && t.memRead 0 == 2#8 && t.memRead 1 == 3#8 && t.memRead 0xFFE == 0#8) = true := by
  decide

/-- Both ends of the run of registers, the font protected, and I kept when `P_INC_I` is false. -/
theorem witness_RegisterDumpStoresV0ToVx :
    nextMeets (exec (.ldMemVx 1) { (regs2 0 7 1 9).setI 79 with cfg := configWith false true true })
      (fun t => t.memRead 79 == 0xF0#8 && t.memRead 80 == 9#8 && t.memRead 81 == 0#8 && t.i == 79#16) = true ∧
    nextMeets (exec (.ldMemVx 15) ((regs2 0 7 15 9).setI 0xFFFF))
      (fun t => t.memRead 0xFFF == 7#8 && t.memRead 14 == 9#8 && t.memRead 15 == 0xF0#8 && t.i == 15#16) = true := by
  decide

theorem witness_RegisterLoadReadsV0ToVx :
    nextMeets (exec (.ldVxMem 1) { withBytes 0x300 [1, 2, 3] with cfg := configWith false true false })
      (fun t => t.getV 0 == 1#8 && t.getV 1 == 2#8 && t.getV 2 == 0#8 && t.i == 0x300#16) = true := by decide

/-- A cell at each end of the covered columns and rows that is covered, one past each end that is not, over a clear
screen and over a set cell. -/
theorem witness_DrawFlipsExactlyTheCoveredCells :
    let s := ((withBytes 0x300#16 [0x81, 0x81]).setV 0 60).setV 1 31
    spriteCovers s 0 1 2 60 31 = true ∧ spriteCovers s 0 1 2 3 0 = true ∧ spriteCovers s 0 1 2 4 0 = false ∧
    spriteCovers s 0 1 2 59 31 = false ∧ spriteCovers s 0 1 2 60 1 = false ∧ spriteCovers s 0 1 0 60 31 = false ∧
    s.fbCell (31 * 64 + 60) = false ∧ ({ s with fb := flipCell s.fb 3 0 } : State).fbCell (0 * 64 + 3) = true := by decide

theorem witness_DrawingTwiceRestoresTheScreen : (0 : Reg) ≠ vF ∧ (1 : Reg) ≠ vF ∧
    nextMeets (exec (.drwVxVyN 0 1 1#4) (withBytes 0x300#16 [0xFF])) (fun t => t.fbCell 0 && t.fbCell 7) = true := by decide

theorem witness_KeySkips : (0xA#4).toNat = ((s0.setV 0 0x1A).getV 0).toNat % 16 ∧
    (0xF#4).toNat = ((s0.setV 0 0xFF).getV 0).toNat % 16 := by decide

theorem witness_KeyWaitTakesThePendingKey : ({ s0 with inputPending := true } : State).inputPending = true ∧
    s0.inputPending = false := by decide

/-- `ReadDelayTimer`, `WriteDelayTimer`, `WriteSoundTimer`: the words at PC of a core that is not halted. -/
theorem witness_TimerInstructions : s0.fault = .none ∧ fetches (s0.placeWord 0xF107) (.ldVxDt 1) = true ∧
    fetches (s0.placeWord 0xF015) (.ldDtVx 0) = true ∧ fetches (s0.placeWord 0xF418) (.ldStVx 4) = true := by decide

/-- The first register past those FX65 loads, and VF after a plain load. -/
theorem witness_OnlyNamedRegistersAreWritten : writesReg 4 (.ldVxMem 3) = false ∧ writesReg vF (.ldVxNn 14 0#8) = false ∧
    nextMeets (exec (.ldVxMem 3) s0) (fun _ => true) = true ∧ nextMeets (exec (.ldVxNn 14 0#8) s0) (fun _ => true) = true := by
  decide

/-- A byte changed at each end of what FX33 and FX55 store. -/
theorem witness_OnlyTwoInstructionsWriteMemory :
    nextMeets (exec (.ldBVx 0) ((s0.setV 0 111).setI 0x300))
      (fun t => t.memRead 0x300 != s0.memRead 0x300 && t.memRead 0x302 != s0.memRead 0x302) = true ∧
    nextMeets (exec (.ldMemVx 1) ((regs2 0 7 1 9).setI 0xFFF))
      (fun t => t.memRead 0xFFF != s0.memRead 0xFFF && t.memRead 0 != s0.memRead 0) = true := by decide

theorem witness_OnlyStackFaultsWriteFault :
    nextMeets (exec .ret s0) (fun t => t.fault != s0.fault) = true ∧
    nextMeets (exec (.callNnn 0#12) { s0 with sp := 16 }) (fun t => t.fault != s0.fault) = true := by decide

theorem witness_InstructionsLeaveTheHostsState :
    nextMeets (exec .cls s0) (fun t => t.dirty) = true ∧ nextMeets (exec (.ldVxK 0) s0) (fun t => !t.dirty) = true := by decide

theorem witness_DirtyIsSetByDrawsAndClearedByTheHost :
    nextMeets (exec (.drwVxVyN 0 0 0#4) s0) (fun t => t.dirty) = true ∧
    nextMeets (exec (.ldINnn 0#12) s0) (fun t => !t.dirty) = true := by decide

/-- For CXNN the random byte stays; for any other instruction it may be replaced. -/
theorem witness_UnreadStateDoesNotInfluence :
    (∀ x nn, Instr.rndVxNn 3 0xFF#8 = .rndVxNn x nn → s0.rnd = s0.rnd) ∧
    (∀ x nn, Instr.ldStVx 3 = .rndVxNn x nn → 0x5A#8 = s0.rnd) :=
  ⟨fun _ _ _ => rfl, fun _ _ h => nomatch h⟩

theorem witness_OnlyResetLeavesTheHaltedState : (s0.raiseFault .stackOverflow).fault ≠ .none ∧
    nextMeets ((s0.raiseFault .stackOverflow).move (.reset [0x12])) (fun t => t.fault == .none) = true ∧
    nextMeets ((s0.raiseFault .stackOverflow).move (.cycle 3)) (fun t => t.fault == .stackOverflow) = true ∧
    nextMeets ((s0.raiseFault .stackOverflow).move (.event .clearDirty)) (fun t => t.fault == .stackOverflow) = true := by
  decide

end Sys2Proof.Tests
end

section
/-! Reset and load: what memory reads as after the loader (R40, R340), and that the loader writes memory alone. -/

namespace Sys2Proof.Machine

/-! ## Unlisted memory: the font and zeros -/

theorem unlisted_font (c : Config) {a : Nat} (h : a < 80) : unlisted c a = c.pFont[a] := dif_pos h

theorem unlisted_zero (c : Config) {a : Nat} (h : 80 ≤ a) : unlisted c a = 0#8 := dif_neg (Nat.not_lt.mpr h)

theorem memRead_resetWith (c : Config) (a : Nat) : (State.resetWith c).memRead a = unlisted c (a % 4096) := rfl

/-! ## The loader -/

/-- A state that differs in its list of cells differs in memory alone. -/
theorem unchangedExcept_mem (s : State) (m : Memory) : UnchangedExcept [.mem] s { s with mem := m } := by
  intro p hp
  cases p with
  | mem => exact absurd (List.mem_singleton.mpr rfl) hp
  | v | fb => exact fun _ => rfl
  | callStack => exact ⟨rfl, rfl⟩
  | keypad | cycleInput => exact ⟨rfl, rfl, rfl⟩
  | cfg | i | pc | dt | st | dirty | fault | ir => rfl

theorem pokeBytes_unchangedExcept_mem (s : State) (a : Nat) (bs : List Byte) :
    UnchangedExcept [.mem] s (s.pokeBytes a bs) := by
  obtain ⟨m, h⟩ := pokeBytes_shape s a bs
  rw [h]
  exact unchangedExcept_mem s m

/-- A ROM of at most 3584 bytes is poked into the reset state from 0x200 on (R340). -/
theorem load_of_fits (c : Config) {rom : List Byte} (hfit : rom.length ≤ 3584) :
    State.load c rom = .next ((State.resetWith c).pokeBytes 0x200 rom) := if_neg (Nat.not_lt.mpr hfit)

section
variable (c : Config) {rom : List Byte}

/-- Inside the ROM's range the loaded memory holds the ROM. -/
theorem memRead_loaded_rom (hfit : rom.length ≤ 3584) {j : Nat} (hj : j < rom.length) :
    ((State.resetWith c).pokeBytes 0x200 rom).memRead (0x200 + j) = rom[j] := by
  rw [memRead_pokeBytes _ _ _ _ (by omega) (by omega), dif_pos ⟨by omega, by omega⟩]
  simp only [Nat.add_sub_cancel_left]

/-- Outside the ROM's range the loaded memory is what reset left: the font and zeros. -/
theorem memRead_loaded_other (hfit : rom.length ≤ 3584) {a : Nat} (ha : a < 4096)
    (hout : a < 0x200 ∨ 0x200 + rom.length ≤ a) :
    ((State.resetWith c).pokeBytes 0x200 rom).memRead a = unlisted c a := by
  rw [memRead_pokeBytes _ _ _ _ (by omega) ha, dif_neg (by omega), memRead_resetWith, Nat.mod_eq_of_lt ha]

end

/-- Settles O2: a ROM that fits is poked into the reset state, so each of the four ranges reads as the ROM or as
unlisted memory. -/
theorem loadPlacesFontAndRom : Obligations.LoadPlacesFontAndRom := by
  intro c rom hfit
  refine ⟨_, load_of_fits c hfit, pokeBytes_unchangedExcept_mem _ _ _, ?font, ?gap, ?rom, ?rest⟩
  case font =>
    intro a ha
    rw [memRead_loaded_other c hfit (by omega) (.inl (by omega)), unlisted_font c ha]
  case gap =>
    intro a h80 ha
    rw [memRead_loaded_other c hfit (by omega) (.inl ha), unlisted_zero c h80]
  case rom => exact fun j hj => memRead_loaded_rom c hfit hj
  case rest =>
    intro a hrom ha
    rw [memRead_loaded_other c hfit ha (.inr hrom), unlisted_zero c (by omega)]

end Sys2Proof.Machine
end

section
/-! Control flow: the frame of the updates of PC and the screen, jumps and skips (R131, R133, R136, R137), and a CALL
undone by a RET (R141). -/

namespace Sys2Proof.Machine

/-! ## Frames -/

theorem Part.same_trans {p : Part} {s t u : State} (hst : p.same s t) (htu : p.same t u) : p.same s u := by
  cases p with
  | mem | v | fb => exact fun k => (htu k).trans (hst k)
  | callStack => exact ⟨htu.1.trans hst.1, htu.2.trans hst.2⟩
  | keypad | cycleInput =>
    obtain ⟨h1, h2, h3⟩ := hst
    obtain ⟨k1, k2, k3⟩ := htu
    exact ⟨k1.trans h1, k2.trans h2, k3.trans h3⟩
  | cfg | i | pc | dt | st | dirty | fault | ir => exact Eq.trans htu hst

/-- Two updates in a row change at most what each of them changes. -/
theorem UnchangedExcept.trans {ps qs : List Part} {s t u : State} (hst : UnchangedExcept ps s t)
    (htu : UnchangedExcept qs t u) : UnchangedExcept (ps ++ qs) s u := by
  intro p hp
  rw [List.mem_append, not_or] at hp
  exact Part.same_trans (hst p hp.1) (htu p hp.2)

theorem setPc_unchangedExcept_pc (s : State) (w : Word) : UnchangedExcept [.pc] s (s.setPc w) := by
  intro p hp
  cases p with
  | pc => exact absurd (List.mem_singleton.mpr rfl) hp
  | mem | v | fb => exact fun _ => rfl
  | callStack => exact ⟨rfl, rfl⟩
  | keypad | cycleInput => exact ⟨rfl, rfl, rfl⟩
  | cfg | i | dt | st | dirty | fault | ir => rfl

theorem advance_unchangedExcept_pc (s : State) : UnchangedExcept [.pc] s s.advance := setPc_unchangedExcept_pc s _

theorem skipIf_unchangedExcept_pc (s : State) (c : Bool) : UnchangedExcept [.pc] s (s.skipIf c) :=
  setPc_unchangedExcept_pc s _

theorem setScreen_unchangedExcept_fb_dirty (s : State) (g : Screen) :
    UnchangedExcept [.fb, .dirty] s (s.setScreen g) := by
  intro p hp
  cases p with
  | fb | dirty => simp at hp
  | mem | v => exact fun _ => rfl
  | callStack => exact ⟨rfl, rfl⟩
  | keypad | cycleInput => exact ⟨rfl, rfl, rfl⟩
  | cfg | i | pc | dt | st | fault | ir => rfl

/-! ## Where PC goes -/

theorem zext16_toNat (nnn : Addr12) : (zext16 nnn).toNat = nnn.toNat :=
  BitVec.toNat_setWidth_of_le (by decide)

theorem pcAdvancedBy_of_pc_eq {s t : State} {d : Word} (h : t.pc = s.pc + d) : PcAdvancedBy d.toNat s t := by
  rw [PcAdvancedBy, h, BitVec.toNat_add]

theorem advance_pcAdvancedBy (s : State) : PcAdvancedBy 2 s s.advance := pcAdvancedBy_of_pc_eq (d := 2#16) rfl

theorem skipIf_pcAdvancedBy (s : State) (c : Bool) : PcAdvancedBy (if c then 4 else 2) s (s.skipIf c) := by
  cases c with
  | true => exact pcAdvancedBy_of_pc_eq (d := 4#16) rfl
  | false => exact pcAdvancedBy_of_pc_eq (d := 2#16) rfl

/-! ## CLS, JP and the skips on an immediate -/

theorem cellAt_clear (x y : Nat) : cellAt (.replicate 32 0) x y = false := by simp [cellAt]

/-- Settles O21: CLS is a write of the clear screen, then the advance of PC. -/
theorem clsClearsTheScreen : Obligations.ClsClearsTheScreen := by
  refine ⟨fun fx1e w h => ?decodes, fun s => ⟨(s.setScreen (.replicate 32 0)).advance, rfl, ?cells, rfl, ?pc, ?frame⟩⟩
  case decodes => rw [word_of_full_mask h]; rfl
  case cells => exact fun k _ => cellAt_clear (k % 64) (k / 64)
  case pc => exact advance_pcAdvancedBy (s.setScreen _)
  case frame => exact (setScreen_unchangedExcept_fb_dirty s _).trans (advance_unchangedExcept_pc _)

/-- Settles O24: JP writes PC alone, with NNN extended by zeros. -/
theorem jpSetsPcToNnn : Obligations.JpSetsPcToNnn :=
  ⟨fun fx1e _ h => decode_of_O1 fx1e (fieldO_of_mask h rfl rfl),
    fun nnn s => ⟨s.setPc (zext16 nnn), rfl, zext16_toNat nnn, setPc_unchangedExcept_pc s _⟩⟩

/-- Settles O29: both skips are `skipIf`, SE on the comparison of VX with NN and SNE on its negation. -/
theorem immediateSkips : Obligations.ImmediateSkips := by
  refine ⟨fun fx1e _ h => decode_of_O3 fx1e (fieldO_of_mask h rfl rfl),
    fun fx1e _ h => decode_of_O4 fx1e (fieldO_of_mask h rfl rfl), fun x nn s => ⟨?se, ?sne⟩⟩
  case se =>
    refine ⟨s.skipIf (s.getV x == nn), rfl, ?_, skipIf_unchangedExcept_pc s _⟩
    simpa using skipIf_pcAdvancedBy s (s.getV x == nn)
  case sne =>
    refine ⟨s.skipIf (s.getV x != nn), rfl, ?_, skipIf_unchangedExcept_pc s _⟩
    simpa using skipIf_pcAdvancedBy s (s.getV x != nn)

/-! ## CALL, then RET -/

theorem exec_callNnn (nnn : Addr12) (s : State) : exec (.callNnn nnn) s = .next (s.callTo (zext16 nnn)) := rfl

theorem exec_ret (s : State) : exec .ret s = .next s.returnFromCall := rfl

/-- A RET at depth `d + 1` pops entry `d`. -/
theorem returnFromCall_of_depth {s : State} {d : Nat} (hd : d < 16) (hsp : s.sp.val = d + 1) :
    s.returnFromCall = { s with sp := ⟨d, by omega⟩, pc := s.stack[d] + 2#16 } := by
  rw [returnFromCall_of_pos (by omega)]
  simp [hsp]

/-- Settles O27: the entry the RET pops is the one at the CALL's SP, which the CALL filled with its own address. -/
theorem callThenRetRoundTrips : Obligations.CallThenRetRoundTrips := by
  intro nnn s s1 s2 h hcall hsp hentry
  rw [exec_callNnn, callTo_of_lt h] at hcall
  cases hcall
  have hdepth : s2.sp.val = s.sp.val + 1 := by rw [hsp]
  have hpushed : s2.stack[s.sp.val] = s.pc := hentry.trans (Vector.getElem_set_self h)
  have hret := (exec_ret s2).trans (congrArg Host.Outcome.next (returnFromCall_of_depth h hdepth))
  exact ⟨_, hret, pcAdvancedBy_of_pc_eq (d := 2#16) (congrArg (· + 2#16) hpushed), rfl⟩

end Sys2Proof.Machine
end

section
/-! Immediate loads and adds (R160, R161): what a write of one register followed by the advance of PC does. -/

namespace Sys2Proof.Machine

/-! ## A register write, then the advance of PC -/

theorem setV_unchangedExcept_v (s : State) (x : Reg) (b : Byte) : UnchangedExcept [.v] s (s.setV x b) := by
  intro p hp
  cases p with
  | v => exact absurd (List.mem_singleton.mpr rfl) hp
  | mem | fb => exact fun _ => rfl
  | callStack => exact ⟨rfl, rfl⟩
  | keypad | cycleInput => exact ⟨rfl, rfl, rfl⟩
  | cfg | i | pc | dt | st | dirty | fault | ir => rfl

theorem setV_advance_unchangedExcept_v_pc (s : State) (x : Reg) (b : Byte) :
    UnchangedExcept [.v, .pc] s (s.setV x b).advance :=
  (setV_unchangedExcept_v s x b).trans (advance_unchangedExcept_pc _)

theorem setV_regsUnchangedExcept (s : State) (x : Reg) (b : Byte) : RegsUnchangedExcept (· = x) s (s.setV x b) :=
  fun r hr => (getV_setV s x r b).trans (if_neg hr)

/-- The clauses shared by the instructions that write VX alone: VX is the byte, every other register and part is kept,
and PC is two on. -/
theorem setV_advance_spec (s : State) (x : Reg) (b : Byte) :
    (s.setV x b).advance.getV x = b ∧ RegsUnchangedExcept (· = x) s (s.setV x b).advance ∧
      PcAdvancedBy 2 s (s.setV x b).advance ∧ UnchangedExcept [.v, .pc] s (s.setV x b).advance :=
  ⟨getV_setV_same s x b, setV_regsUnchangedExcept s x b, advance_pcAdvancedBy (s.setV x b),
    setV_advance_unchangedExcept_v_pc s x b⟩

/-! ## LD and ADD of an immediate -/

theorem exec_ldVxNn (x : Reg) (nn : Byte) (s : State) : exec (.ldVxNn x nn) s = .next (s.setV x nn).advance := rfl

theorem exec_addVxNn (x : Reg) (nn : Byte) (s : State) :
    exec (.addVxNn x nn) s = .next (s.setV x (s.getV x + nn)).advance := rfl

/-- Settles O31: LD writes NN to VX, then advances PC. -/
theorem loadImmediateSetsTheRegister : Obligations.LoadImmediateSetsTheRegister :=
  ⟨fun fx1e _ h => decode_of_O6 fx1e (fieldO_of_mask h rfl rfl),
    fun x nn s => ⟨_, exec_ldVxNn x nn s, setV_advance_spec s x nn⟩⟩

/-- Settles O32: ADD writes the 8-bit sum to VX, which is the sum modulo 256, then advances PC; it has no flag write. -/
theorem addImmediateWrapsWithoutFlag : Obligations.AddImmediateWrapsWithoutFlag := by
  refine ⟨fun fx1e _ h => decode_of_O7 fx1e (fieldO_of_mask h rfl rfl), fun x nn s => ?_⟩
  obtain ⟨hvx, hrest⟩ := setV_advance_spec s x (s.getV x + nn)
  have hsum : ((s.setV x (s.getV x + nn)).advance.getV x).toNat = ((s.getV x).toNat + nn.toNat) % 256 := by
    rw [hvx, BitVec.toNat_add]
  exact ⟨_, exec_addVxNn x nn s, hsum, hrest⟩

end Sys2Proof.Machine
end

section
/-! The arithmetic group 8XYN: LD between registers (R171), and ADD, SUB and SUBN, which write VX and then the flag
(R170, R175, R176, R178). -/

namespace Sys2Proof.Machine

/-! ## The words of group 8 -/

/-- The trailing nibble selects the row of group 8 (R97). -/
theorem encodedBy_of_group8 {p : Word} {n : Nibble} {i : Word → Instr} (hO : fieldO p = 0x8#4) (hN : fieldN p = n)
    (hrow : ∀ w, fieldN w = n → decodeGroup8 w = .instr (i w)) : EncodedBy 0xF00F#16 p i :=
  fun fx1e w h => (decode_of_O8 fx1e (fieldO_of_mask h rfl hO)).trans (hrow w (fieldN_of_mask h rfl hN))

section
variable {w : Word}

theorem decodeGroup8_of_N0 (h : fieldN w = 0x0#4) : decodeGroup8 w =
    .instr (.ldVxVy (fieldX w) (fieldY w)) := by simp [decodeGroup8, h]

theorem decodeGroup8_of_N4 (h : fieldN w = 0x4#4) : decodeGroup8 w =
    .instr (.addVxVy (fieldX w) (fieldY w)) := by simp [decodeGroup8, h]

theorem decodeGroup8_of_N5 (h : fieldN w = 0x5#4) : decodeGroup8 w =
    .instr (.subVxVy (fieldX w) (fieldY w)) := by simp [decodeGroup8, h]

theorem decodeGroup8_of_N7 (h : fieldN w = 0x7#4) : decodeGroup8 w =
    .instr (.subnVxVy (fieldX w) (fieldY w)) := by simp [decodeGroup8, h]

end

/-! ## A result, then the flag, then the advance of PC -/

section
variable (s : State) (x : Reg)

theorem setResultThenFlag_regsUnchangedExcept (result flag : Byte) :
    RegsUnchangedExcept (fun r => r = x ∨ r = vF) s (s.setResultThenFlag x result flag) := by
  intro r hr
  obtain ⟨hx, hF⟩ := not_or.mp hr
  rw [getV_setResultThenFlag, if_neg hF, if_neg hx]

/-- Both writes are register writes. -/
theorem setResultThenFlag_unchangedExcept_v (result flag : Byte) :
    UnchangedExcept [.v] s (s.setResultThenFlag x result flag) :=
  fun p hp => Part.same_trans (setV_unchangedExcept_v s x result p hp)
    (setV_unchangedExcept_v (s.setV x result) vF flag p hp)

/-- The clauses shared by the instructions that write VX and then VF: VF is the flag `f` even when X is F, VX is the
result `n` otherwise, every other register and part is kept, and PC is two on. -/
theorem setResultThenFlag_advance_spec {result flag : Byte} {n f : Nat} (hflag : flag.toNat = f)
    (hresult : result.toNat = n) :
    ((s.setResultThenFlag x result flag).advance.getV vF).toNat = f ∧
      (x ≠ vF → ((s.setResultThenFlag x result flag).advance.getV x).toNat = n) ∧
      RegsUnchangedExcept (fun r => r = x ∨ r = vF) s (s.setResultThenFlag x result flag).advance ∧
      PcAdvancedBy 2 s (s.setResultThenFlag x result flag).advance ∧
      UnchangedExcept [.v, .pc] s (s.setResultThenFlag x result flag).advance := by
  refine ⟨?flag, fun hx => ?result, setResultThenFlag_regsUnchangedExcept s x result flag,
    advance_pcAdvancedBy (s.setResultThenFlag x result flag),
    (setResultThenFlag_unchangedExcept_v s x result flag).trans (advance_unchangedExcept_pc _)⟩
  case flag => rw [advance_getV, getV_setResultThenFlag, if_pos rfl, hflag]
  case result => rw [advance_getV, getV_setResultThenFlag, if_neg hx, if_pos rfl, hresult]

end

/-! ## What the instructions answer -/

section
variable (x y : Reg) (s : State)

theorem exec_ldVxVy : exec (.ldVxVy x y) s = .next (s.setV x (s.getV y)).advance := rfl

theorem exec_addVxVy : exec (.addVxVy x y) s =
    .next (s.setResultThenFlag x (s.getV x + s.getV y) (carryFlag (s.getV x) (s.getV y))).advance := rfl

theorem exec_subVxVy : exec (.subVxVy x y) s =
    .next (s.setResultThenFlag x (s.getV x - s.getV y) (noBorrowFlag (s.getV x) (s.getV y))).advance := rfl

theorem exec_subnVxVy : exec (.subnVxVy x y) s =
    .next (s.setResultThenFlag x (s.getV y - s.getV x) (noBorrowFlag (s.getV y) (s.getV x))).advance := rfl

end

/-- Settles O33: LD writes the old VY to VX, then advances PC. -/
theorem loadRegisterCopies : Obligations.LoadRegisterCopies :=
  ⟨encodedBy_of_group8 rfl rfl fun _ => decodeGroup8_of_N0,
    fun x y s => ⟨_, exec_ldVxVy x y s, setV_advance_spec s x (s.getV y)⟩⟩

/-- Settles O35: the result is the 8-bit sum, and the flag written after it is the carry of the old values. -/
theorem addSetsCarryLast : Obligations.AddSetsCarryLast :=
  ⟨encodedBy_of_group8 rfl rfl fun _ => decodeGroup8_of_N4,
    fun x y s => ⟨_, exec_addVxVy x y s,
      setResultThenFlag_advance_spec s x (carryFlag_toNat _ _) (BitVec.toNat_add _ _)⟩⟩

/-- The 8-bit difference, with 256 borrowed before the subtraction (R176, R178). -/
theorem byte_sub_toNat (a b : Byte) : (a - b).toNat = (a.toNat + 256 - b.toNat) % 256 := by
  have hb : b.toNat < 256 := b.isLt
  rw [BitVec.toNat_sub]
  omega

/-- Settles O36: SUB and SUBN are one subtraction with the operands exchanged; the flag written after the difference is
the no-borrow flag of the old values. -/
theorem subtractionsSetNoBorrowLast : Obligations.SubtractionsSetNoBorrowLast := by
  refine ⟨encodedBy_of_group8 rfl rfl fun _ => decodeGroup8_of_N5,
    encodedBy_of_group8 rfl rfl fun _ => decodeGroup8_of_N7, fun x y s => ⟨?sub, ?subn⟩⟩
  case sub =>
    exact ⟨_, exec_subVxVy x y s,
      setResultThenFlag_advance_spec s x (noBorrowFlag_toNat _ _) (byte_sub_toNat _ _)⟩
  case subn =>
    exact ⟨_, exec_subnVxVy x y s,
      setResultThenFlag_advance_spec s x (noBorrowFlag_toNat _ _) (byte_sub_toNat _ _)⟩

end Sys2Proof.Machine
end

section
/-! Writes of the index register (R201, R203): the frame of `setI`, the row FX29 of group F, and the glyph addresses. -/

namespace Sys2Proof.Machine

/-! ## An index write, then the advance of PC -/

theorem setI_unchangedExcept_i (s : State) (a : Word) : UnchangedExcept [.i] s (s.setI a) := by
  intro p hp
  cases p with
  | i => exact absurd (List.mem_singleton.mpr rfl) hp
  | mem | v | fb => exact fun _ => rfl
  | callStack => exact ⟨rfl, rfl⟩
  | keypad | cycleInput => exact ⟨rfl, rfl, rfl⟩
  | cfg | pc | dt | st | dirty | fault | ir => rfl

/-- The clauses shared by the instructions that write I alone: I is the number `n`, every other part is kept, and PC is
two on. -/
theorem setI_advance_spec (s : State) {a : Word} {n : Nat} (ha : a.toNat = n) :
    (s.setI a).advance.i.toNat = n ∧ PcAdvancedBy 2 s (s.setI a).advance ∧
      UnchangedExcept [.i, .pc] s (s.setI a).advance :=
  ⟨ha, advance_pcAdvancedBy (s.setI a), (setI_unchangedExcept_i s a).trans (advance_unchangedExcept_pc _)⟩

/-! ## LD I, NNN -/

theorem exec_ldINnn (nnn : Addr12) (s : State) : exec (.ldINnn nnn) s = .next (s.setI (zext16 nnn)).advance := rfl

/-- Settles O38: LD writes NNN, extended by zeros, to I, then advances PC. -/
theorem loadIndexSetsI : Obligations.LoadIndexSetsI :=
  ⟨fun fx1e _ h => decode_of_OA fx1e (fieldO_of_mask h rfl rfl),
    fun nnn s => ⟨_, exec_ldINnn nnn s, setI_advance_spec s (zext16_toNat nnn)⟩⟩

/-! ## LD F, VX -/

/-- The low byte selects the row of group F (R100), under either setting of `P_FX1E`. -/
theorem encodedBy_of_groupF {p : Word} {nn : Byte} {i : Word → Instr} (hO : fieldO p = 0xF#4) (hNN : fieldNN p = nn)
    (hrow : ∀ fx1e w, fieldNN w = nn → decodeGroupF fx1e w = .instr (i w)) : EncodedBy 0xF0FF#16 p i :=
  fun fx1e w h => (decode_of_OF fx1e (fieldO_of_mask h rfl hO)).trans (hrow fx1e w (fieldNN_of_mask h rfl hNN))

theorem decodeGroupF_of_NN29 (fx1e : Bool) {w : Word} (h : fieldNN w = 0x29#8) :
    decodeGroupF fx1e w = .instr (.ldFVx (fieldX w)) := by simp [decodeGroupF, h]

theorem exec_ldFVx (x : Reg) (s : State) :
    exec (.ldFVx x) s = .next (s.setI (BitVec.ofNat 16 ((s.getV x).toNat * 5))).advance := rfl

/-- Five times a byte is at most 1275, so the product is kept whole in the 16 bits of I. -/
theorem glyphAddress_toNat (b : Byte) : (BitVec.ofNat 16 (b.toNat * 5)).toNat = b.toNat * 5 := by
  have hb : b.toNat < 256 := b.isLt
  rw [BitVec.toNat_ofNat, Nat.mod_eq_of_lt (by omega)]

/-- After a reset the first 80 bytes of memory are the font (R42). -/
theorem memRead_resetWith_font (c : Config) {a : Nat} (h : a < 80) : (State.resetWith c).memRead a = c.pFont[a] := by
  rw [memRead_resetWith, Nat.mod_eq_of_lt (by omega), unlisted_font c h]

/-- Settles O40: LD F writes the whole product of VX and 5 to I; the 16 glyphs of 5 bytes lie inside the font. -/
theorem fontAddressIsFiveTimesVx : Obligations.FontAddressIsFiveTimesVx :=
  ⟨encodedBy_of_groupF rfl rfl fun fx1e _ => decodeGroupF_of_NN29 fx1e,
    fun x s => ⟨_, exec_ldFVx x s, setI_advance_spec s (glyphAddress_toNat _)⟩,
    fun c _ _ _ _ => memRead_resetWith_font c (by omega)⟩

end Sys2Proof.Machine
end

section
/-! The random byte (R231): RND VX, NN writes one register from the byte of the cycle. -/

namespace Sys2Proof.Machine

theorem exec_rndVxNn (x : Reg) (nn : Byte) (s : State) :
    exec (.rndVxNn x nn) s = .next (s.setV x (s.rnd &&& nn)).advance := rfl

/-- Settles O44: RND writes the cycle's random byte AND NN to VX, then advances PC. The registers and PC do not depend
on the random byte, so the clauses about them are the same from `s` as from `s` with that byte. -/
theorem randomByteIsMasked : Obligations.RandomByteIsMasked := by
  refine ⟨fun fx1e _ h => decode_of_OC fx1e (fieldO_of_mask h rfl rfl), fun x nn rnd s => ?_⟩
  obtain ⟨hvx, hrest⟩ := setV_advance_spec { s with rnd := rnd } x (rnd &&& nn)
  refine ⟨_, exec_rndVxNn x nn { s with rnd := rnd }, fun k => ?_, hrest⟩
  rw [hvx, BitVec.getLsbD_and]

end Sys2Proof.Machine
end

section
/-! The timers (R280, R282): a cycle that raises no fault ends with the timer step, and the rows FX07 and FX18. -/

namespace Sys2Proof.Machine

/-! ## The cycle of an instruction that raises no fault -/

/-- The instruction runs on the state with the cycle's inputs and IR loaded, and the timer step follows it (R110,
R283). -/
theorem step_of_instr_running {s t : State} {i : Instr} (h : s.fault = .none)
    (hd : decode s.cfg.pFx1e s.fetch = .instr i) (he : exec i (s.takeInput.setIr s.fetch) = .next t)
    (ht : t.fault = .none) : step s = .next t.tickTimers :=
  (step_of_instr h hd he).trans (congrArg Host.Outcome.next (endOfCycle_of_running ht))

/-! ## LD VX, DT -/

theorem decodeGroupF_of_NN07 (fx1e : Bool) {w : Word} (h : fieldNN w = 0x07#8) :
    decodeGroupF fx1e w = .instr (.ldVxDt (fieldX w)) := by simp [decodeGroupF, h]

theorem exec_ldVxDt (x : Reg) (s : State) : exec (.ldVxDt x) s = .next (s.setV x s.dt).advance := rfl

/-- Settles O49: LD reads DT before the timer step, which leaves the register alone and counts DT down. -/
theorem readDelayTimer : Obligations.ReadDelayTimer := by
  refine ⟨encodedBy_of_groupF rfl rfl fun fx1e _ => decodeGroupF_of_NN07 fx1e,
    fun x s => ⟨_, exec_ldVxDt x s, setV_advance_spec s x s.dt⟩, fun x s h hd => ?cycle⟩
  case cycle =>
    have hstep := step_of_instr_running h hd (exec_ldVxDt x _) (by simpa using h)
    refine ⟨_, hstep, ?vx, ?dt⟩
    case vx => simp
    case dt => simp [countDown_toNat]

/-! ## LD ST, VX -/

theorem setSt_unchangedExcept_st (s : State) (b : Byte) : UnchangedExcept [.st] s (s.setSt b) := by
  intro p hp
  cases p with
  | st => exact absurd (List.mem_singleton.mpr rfl) hp
  | mem | v | fb => exact fun _ => rfl
  | callStack => exact ⟨rfl, rfl⟩
  | keypad | cycleInput => exact ⟨rfl, rfl, rfl⟩
  | cfg | i | pc | dt | dirty | fault | ir => rfl

theorem decodeGroupF_of_NN18 (fx1e : Bool) {w : Word} (h : fieldNN w = 0x18#8) :
    decodeGroupF fx1e w = .instr (.ldStVx (fieldX w)) := by simp [decodeGroupF, h]

theorem exec_ldStVx (x : Reg) (s : State) : exec (.ldStVx x) s = .next (s.setSt (s.getV x)).advance := rfl

/-- Settles O51: LD writes VX to ST, and the timer step then counts the new ST down. -/
theorem writeSoundTimer : Obligations.WriteSoundTimer := by
  refine ⟨encodedBy_of_groupF rfl rfl fun fx1e _ => decodeGroupF_of_NN18 fx1e,
    fun x s => ⟨_, exec_ldStVx x s, rfl, advance_pcAdvancedBy (s.setSt _),
      (setSt_unchangedExcept_st s _).trans (advance_unchangedExcept_pc _)⟩, fun x s h hd => ?cycle⟩
  case cycle =>
    have hstep := step_of_instr_running h hd (exec_ldStVx x _) (by simpa using h)
    have hcount := countDown_toNat (s.getV x)
    exact ⟨_, hstep, by simpa using hcount⟩

end Sys2Proof.Machine
end

section
/-! The host's key events (R323 to R325): a read of KEY after SetKey, and that the events write the keypad alone. -/

namespace Sys2Proof.Machine

/-- States that differ in KEY, LAST_KEY and INPUT_PENDING differ in the keypad alone. -/
theorem unchangedExcept_keypad (s : State) (key : Vector Bool 16) (lastKey : Nibble) (pending : Bool) :
    UnchangedExcept [.keypad] s { s with key := key, lastKey := lastKey, inputPending := pending } := by
  intro p hp
  cases p with
  | keypad => exact absurd (List.mem_singleton.mpr rfl) hp
  | mem | v | fb => exact fun _ => rfl
  | callStack => exact ⟨rfl, rfl⟩
  | cycleInput => exact ⟨rfl, rfl, rfl⟩
  | cfg | i | pc | dt | st | dirty | fault | ir => rfl

theorem setKey_keyDown_same (s : State) (k : Nibble) (down : Bool) : (s.perform (.setKey k down)).keyDown k = down :=
  Vector.getElem_set_self k.isLt

theorem setKey_keyDown_ne (s : State) {k k' : Nibble} (down : Bool) (h : k' ≠ k) :
    (s.perform (.setKey k down)).keyDown k' = s.keyDown k' :=
  Vector.getElem_set_ne k.isLt k'.isLt fun hk => h (BitVec.eq_of_toNat_eq hk.symm)

theorem setKey_unchangedExcept_keypad (s : State) (k : Nibble) (down : Bool) :
    UnchangedExcept [.keypad] s (s.perform (.setKey k down)) := unchangedExcept_keypad s _ s.lastKey s.inputPending

theorem keyPressEdge_unchangedExcept_keypad (s : State) (k : Nibble) :
    UnchangedExcept [.keypad] s (s.perform (.keyPressEdge k)) := unchangedExcept_keypad s s.key k true

theorem clearPending_unchangedExcept_keypad (s : State) :
    UnchangedExcept [.keypad] s (s.perform .clearPending) := unchangedExcept_keypad s s.key s.lastKey false

/-- A second press overwrites both fields the first one wrote (R324). -/
theorem keyPressEdge_keyPressEdge (s : State) (k k' : Nibble) :
    (s.perform (.keyPressEdge k')).perform (.keyPressEdge k) = s.perform (.keyPressEdge k) := rfl

/-- Settles O58: each event is an update of the keypad, so what it keeps holds by its definition; a read of KEY after
SetKey splits on whether it reads the key that was set. -/
theorem hostKeyEvents : Obligations.HostKeyEvents := by
  refine fun s k down => ⟨⟨?keys, rfl, rfl, setKey_unchangedExcept_keypad s k down⟩,
    ⟨rfl, rfl, rfl, keyPressEdge_unchangedExcept_keypad s k, keyPressEdge_keyPressEdge s k⟩,
    ⟨rfl, rfl, rfl, clearPending_unchangedExcept_keypad s⟩⟩
  case keys =>
    intro k'
    split
    case isTrue h => rw [h, setKey_keyDown_same]
    case isFalse h => exact setKey_keyDown_ne s down h

end Sys2Proof.Machine
end

section
/-! Encoding and decoding (R93, R95 to R102): the decoder undoes the encoder, format by format, and the rows of the
opcode map as instructions. -/

namespace Sys2Proof

/-! ## The decoder after the encoder -/

/-- Each format's fields are read back from its packed word, so the encoder's constants select the row again. -/
theorem decode_encode (c : Config) (i : Instr) (hwf : i.wellFormed c = true) :
    decode c.pFx1e (encode i) = .instr i := by
  cases i with
  | cls | ret => rfl
  | jpNnn | callNnn | ldINnn | jpV0Nnn =>
    simp [encode, decode_of_O1, decode_of_O2, decode_of_OA, decode_of_OB]
  | seVxNn | sneVxNn | ldVxNn | addVxNn | rndVxNn =>
    simp [encode, decode_of_O3, decode_of_O4, decode_of_O6, decode_of_O7, decode_of_OC]
  | seVxVy | sneVxVy | drwVxVyN => simp [encode, decode_of_O5, decode_of_O9, decode_of_OD]
  | ldVxVy | orVxVy | andVxVy | xorVxVy | addVxVy | subVxVy | shrVx | subnVxVy | shlVx =>
    simp [encode, decode_of_O8, decodeGroup8]
  | skpVx | sknpVx => simp [encode, decode_of_OE, decodeGroupE]
  | addIVx => simp [encode, decode_of_OF, decodeGroupF, show c.pFx1e = true from hwf]
  | ldVxDt | ldVxK | ldDtVx | ldStVx | ldFVx | ldBVx | ldMemVx | ldVxMem =>
    simp [encode, decode_of_OF, decodeGroupF]

/-- Settles O6: the fields of the packed word are the operands. -/
theorem decodeOfEncodeIsTheInstruction : Obligations.DecodeOfEncodeIsTheInstruction := decode_encode

/-! ## The encoder after the decoder

A word is put together from its fields; a field the decoder has compared is the encoder's constant. -/

section
variable {w : Word} {o n : Nibble} {nn : Byte}

theorem packA_of_fieldO (hO : fieldO w = o) : packA o (fieldNNN w) = w := hO ▸ packA_fields w

theorem packXK_of_fieldO (hO : fieldO w = o) : packXK o (fieldX w) (fieldNN w) = w := hO ▸ packXK_fields w

theorem packXK_of_fieldO_fieldNN (hO : fieldO w = o) (hNN : fieldNN w = nn) : packXK o (fieldX w) nn = w :=
  hNN ▸ packXK_of_fieldO hO

theorem packXYN_of_fieldO (hO : fieldO w = o) : packXYN o (fieldX w) (fieldY w) (fieldN w) = w :=
  hO ▸ packXYN_fields w

theorem packXYN_of_fieldO_fieldN (hO : fieldO w = o) (hN : fieldN w = n) : packXYN o (fieldX w) (fieldY w) n = w :=
  hN ▸ packXYN_of_fieldO hO

variable {i : Instr}

theorem encode_of_decodeGroup0 (h : decodeGroup0 w = .instr i) : encode i = w := by
  unfold decodeGroup0 at h
  split_ifs at h with hcls hret <;> cases h
  · exact hcls.symm
  · exact hret.symm

theorem encode_of_decodeGroup8 (hO : fieldO w = 0x8#4) (h : decodeGroup8 w = .instr i) : encode i = w := by
  unfold decodeGroup8 at h
  dsimp only at h
  split_ifs at h with hN hN hN hN hN hN hN hN hN <;> cases h <;> exact packXYN_of_fieldO_fieldN hO hN

theorem encode_of_decodeGroupE (hO : fieldO w = 0xE#4) (h : decodeGroupE w = .instr i) : encode i = w := by
  unfold decodeGroupE at h
  dsimp only at h
  split_ifs at h with hNN hNN <;> cases h <;> exact packXK_of_fieldO_fieldNN hO hNN

theorem encode_of_decodeGroupF {fx1e : Bool} (hO : fieldO w = 0xF#4) (h : decodeGroupF fx1e w = .instr i) :
    encode i = w := by
  unfold decodeGroupF at h
  dsimp only at h
  split_ifs at h with hNN hNN hNN hNN hNN _ hNN hNN hNN hNN <;> cases h <;> exact packXK_of_fieldO_fieldNN hO hNN

/-- A word that decodes to an instruction is that instruction's word. -/
theorem encode_of_decode {fx1e : Bool} (h : decode fx1e w = .instr i) : encode i = w := by
  rcases nibble_cases (fieldO w) with hO | hO | hO | hO | hO | hO | hO | hO | hO | hO | hO | hO | hO | hO | hO | hO
  · exact encode_of_decodeGroup0 (decode_of_O0 fx1e hO ▸ h)
  · cases decode_of_O1 fx1e hO ▸ h; exact packA_of_fieldO hO
  · cases decode_of_O2 fx1e hO ▸ h; exact packA_of_fieldO hO
  · cases decode_of_O3 fx1e hO ▸ h; exact packXK_of_fieldO hO
  · cases decode_of_O4 fx1e hO ▸ h; exact packXK_of_fieldO hO
  · rw [decode_of_O5 fx1e hO] at h; split at h <;> cases h; exact packXYN_of_fieldO_fieldN hO ‹_›
  · cases decode_of_O6 fx1e hO ▸ h; exact packXK_of_fieldO hO
  · cases decode_of_O7 fx1e hO ▸ h; exact packXK_of_fieldO hO
  · exact encode_of_decodeGroup8 hO (decode_of_O8 fx1e hO ▸ h)
  · rw [decode_of_O9 fx1e hO] at h; split at h <;> cases h; exact packXYN_of_fieldO_fieldN hO ‹_›
  · cases decode_of_OA fx1e hO ▸ h; exact packA_of_fieldO hO
  · cases decode_of_OB fx1e hO ▸ h; exact packA_of_fieldO hO
  · cases decode_of_OC fx1e hO ▸ h; exact packXK_of_fieldO hO
  · cases decode_of_OD fx1e hO ▸ h; exact packXYN_of_fieldO hO
  · exact encode_of_decodeGroupE hO (decode_of_OE fx1e hO ▸ h)
  · exact encode_of_decodeGroupF hO (decode_of_OF fx1e hO ▸ h)

/-- Without `P_FX1E` no word decodes to FX1E (R100). -/
theorem decode_false_ne_addIVx (x : Reg) : decode false w ≠ .instr (.addIVx x) := by
  intro h
  obtain rfl : packXK 0xF#4 x 0x1E#8 = w := encode_of_decode h
  simp [decode_of_OF, decodeGroupF] at h

theorem wellFormed_of_decode {c : Config} (h : decode c.pFx1e w = .instr i) : i.wellFormed c = true := by
  cases i with
  | addIVx x =>
    cases hfx : c.pFx1e with
    | true => exact hfx
    | false => exact absurd (hfx ▸ h) (decode_false_ne_addIVx x)
  | _ => rfl

end

/-- Settles O7: a decoded instruction's word is the word, and FX1E is decoded only under `P_FX1E`. -/
theorem encodeOfDecodeIsTheWord : Obligations.EncodeOfDecodeIsTheWord :=
  fun _ _ _ h => ⟨encode_of_decode h, wellFormed_of_decode h⟩

/-- The decoder answers an instruction or the undefined word itself (R102). -/
theorem decode_total (fx1e : Bool) (w : Word) : decode fx1e w = .undef w ∨ ∃ i, decode fx1e w = .instr i := by
  rcases nibble_cases (fieldO w) with hO | hO | hO | hO | hO | hO | hO | hO | hO | hO | hO | hO | hO | hO | hO | hO
  · rw [decode_of_O0 fx1e hO]; exact decodeGroup0_total w
  · exact .inr ⟨_, decode_of_O1 fx1e hO⟩
  · exact .inr ⟨_, decode_of_O2 fx1e hO⟩
  · exact .inr ⟨_, decode_of_O3 fx1e hO⟩
  · exact .inr ⟨_, decode_of_O4 fx1e hO⟩
  · rw [decode_of_O5 fx1e hO]; split <;> simp
  · exact .inr ⟨_, decode_of_O6 fx1e hO⟩
  · exact .inr ⟨_, decode_of_O7 fx1e hO⟩
  · rw [decode_of_O8 fx1e hO]; exact decodeGroup8_total w
  · rw [decode_of_O9 fx1e hO]; split <;> simp
  · exact .inr ⟨_, decode_of_OA fx1e hO⟩
  · exact .inr ⟨_, decode_of_OB fx1e hO⟩
  · exact .inr ⟨_, decode_of_OC fx1e hO⟩
  · exact .inr ⟨_, decode_of_OD fx1e hO⟩
  · rw [decode_of_OE fx1e hO]; exact decodeGroupE_total w
  · rw [decode_of_OF fx1e hO]; exact decodeGroupF_total fx1e w

/-! ## The opcode map

The instruction of a row, its operands read from the fields of a word. -/

/-- Row `k` of R95 with the operands that the fields of `w` hold. -/
def rowInstr (w : Word) : Fin 34 → Instr
  | 0 => .cls
  | 1 => .ret
  | 2 => .jpNnn (fieldNNN w)
  | 3 => .callNnn (fieldNNN w)
  | 4 => .seVxNn (fieldX w) (fieldNN w)
  | 5 => .sneVxNn (fieldX w) (fieldNN w)
  | 6 => .seVxVy (fieldX w) (fieldY w)
  | 7 => .ldVxNn (fieldX w) (fieldNN w)
  | 8 => .addVxNn (fieldX w) (fieldNN w)
  | 9 => .ldVxVy (fieldX w) (fieldY w)
  | 10 => .orVxVy (fieldX w) (fieldY w)
  | 11 => .andVxVy (fieldX w) (fieldY w)
  | 12 => .xorVxVy (fieldX w) (fieldY w)
  | 13 => .addVxVy (fieldX w) (fieldY w)
  | 14 => .subVxVy (fieldX w) (fieldY w)
  | 15 => .shrVx (fieldX w) (fieldY w)
  | 16 => .subnVxVy (fieldX w) (fieldY w)
  | 17 => .shlVx (fieldX w) (fieldY w)
  | 18 => .sneVxVy (fieldX w) (fieldY w)
  | 19 => .ldINnn (fieldNNN w)
  | 20 => .jpV0Nnn (fieldNNN w)
  | 21 => .rndVxNn (fieldX w) (fieldNN w)
  | 22 => .drwVxVyN (fieldX w) (fieldY w) (fieldN w)
  | 23 => .skpVx (fieldX w)
  | 24 => .sknpVx (fieldX w)
  | 25 => .ldVxDt (fieldX w)
  | 26 => .ldVxK (fieldX w)
  | 27 => .ldDtVx (fieldX w)
  | 28 => .ldStVx (fieldX w)
  | 29 => .addIVx (fieldX w)
  | 30 => .ldFVx (fieldX w)
  | 31 => .ldBVx (fieldX w)
  | 32 => .ldMemVx (fieldX w)
  | 33 => .ldVxMem (fieldX w)
  | ⟨_ + 34, h⟩ => absurd h (by omega)

/-- Row `k` of the opcode map (R95). -/
def rowAt (k : Fin 34) : OpcodeRow := opcodeRows[k.val]'k.isLt

theorem rowIndex_rowInstr (w : Word) (k : Fin 34) : rowIndex (rowInstr w k) = k := by
  fin_cases k <;> rfl

theorem wellFormed_of_ne_addIVx (c : Config) {i : Instr} (h : ∀ x, i ≠ .addIVx x) : i.wellFormed c = true := by
  cases i with
  | addIVx x => exact absurd rfl (h x)
  | _ => rfl

/-- Only row 29, FX1E, is not an instruction under every setting of the parameters. -/
theorem rowInstr_wellFormed (c : Config) (w : Word) {k : Fin 34} (hk : k ≠ 29) :
    (rowInstr w k).wellFormed c = true := by
  refine wellFormed_of_ne_addIVx c fun x hx => hk ?_
  rw [← rowIndex_rowInstr w k, hx]
  rfl

/-- A word that matches a row is the word of the row's instruction with the operands read from it: the row's mask keeps
exactly the fields that the encoder fixes. -/
theorem encode_rowInstr {w : Word} : ∀ {k : Fin 34}, w &&& (rowAt k).mask = (rowAt k).pattern →
    encode (rowInstr w k) = w
  | 0, h | 1, h => (word_of_full_mask h).symm
  | 2, h | 3, h | 19, h | 20, h => packA_of_fieldO (fieldO_of_mask h rfl rfl)
  | 4, h | 5, h | 7, h | 8, h | 21, h => packXK_of_fieldO (fieldO_of_mask h rfl rfl)
  | 22, h => packXYN_of_fieldO (fieldO_of_mask h rfl rfl)
  | 6, h | 9, h | 10, h | 11, h | 12, h | 13, h | 14, h | 15, h | 16, h | 17, h | 18, h =>
    packXYN_of_fieldO_fieldN (fieldO_of_mask h rfl rfl) (fieldN_of_mask h rfl rfl)
  | 23, h | 24, h | 25, h | 26, h | 27, h | 28, h | 29, h | 30, h | 31, h | 32, h | 33, h =>
    packXK_of_fieldO_fieldNN (fieldO_of_mask h rfl rfl) (fieldNN_of_mask h rfl rfl)
  | ⟨_ + 34, hk⟩, _ => absurd hk (by omega)

/-- The encoding clause of every row but FX1E's. -/
theorem encodedBy_row (k : Fin 34) (hk : k ≠ 29) :
    Machine.EncodedBy (rowAt k).mask (rowAt k).pattern (fun w => rowInstr w k) := by
  intro fx1e w h
  have hdec := decode_encode { Machine.defaultConfig with pFx1e := fx1e } _ (rowInstr_wellFormed _ w hk)
  rwa [encode_rowInstr h] at hdec

theorem decodeGroupF_of_NN1E (fx1e : Bool) {w : Word} (h : fieldNN w = 0x1E#8) :
    decodeGroupF fx1e w = if fx1e then .instr (.addIVx (fieldX w)) else .undef w := by simp [decodeGroupF, h]

/-- Row 29 is FX1E: an instruction exactly when `P_FX1E` (R100). -/
theorem decode_row_fx1e (fx1e : Bool) {w : Word} (h : w &&& 0xF0FF#16 = 0xF01E#16) :
    decode fx1e w = if fx1e then .instr (.addIVx (fieldX w)) else .undef w := by
  rw [decode_of_OF fx1e (fieldO_of_mask h rfl rfl), decodeGroupF_of_NN1E fx1e (fieldNN_of_mask h rfl rfl)]

theorem rowAt_matches_iff (k : Fin 34) (w : Word) :
    (rowAt k).matches w = true ↔ w &&& (rowAt k).mask = (rowAt k).pattern := beq_iff_eq

/-- The word of every instruction matches its row. -/
theorem opcodeRow_matches_encode (i : Instr) : (opcodeRow i).matches (encode i) = true := by
  cases i with
  | cls | ret => rfl
  | jpNnn | callNnn | ldINnn | jpV0Nnn => exact Laws.matches_packA _ rfl rfl
  | seVxNn | sneVxNn | ldVxNn | addVxNn | rndVxNn => exact Laws.matches_packXK _ _ rfl rfl
  | drwVxVyN => exact Laws.matches_packXYN _ _ _ rfl rfl
  | seVxVy | sneVxVy | ldVxVy | orVxVy | andVxVy | xorVxVy | addVxVy | subVxVy | shrVx | subnVxVy | shlVx =>
    exact Laws.matches_packXYN_nibble _ _ rfl rfl
  | skpVx | sknpVx | ldVxDt | ldVxK | ldDtVx | ldStVx | addIVx | ldFVx | ldBVx | ldMemVx | ldVxMem =>
    exact Laws.matches_packXK_byte _ rfl rfl

/-- Two rows of the map differ in a bit that both masks keep. -/
theorem rowAt_disjoint :
    ∀ j k : Fin 34, (rowAt j).pattern &&& (rowAt k).mask = (rowAt k).pattern &&& (rowAt j).mask → j = k := by
  decide

theorem rowAt_unique {j k : Fin 34} {w : Word} (hj : (rowAt j).matches w = true) (hk : (rowAt k).matches w = true) :
    j = k := by
  rw [rowAt_matches_iff] at hj hk
  apply rowAt_disjoint
  rw [← hj, ← hk, BitVec.and_assoc, BitVec.and_assoc, BitVec.and_comm (rowAt j).mask]

/-- A word that matches a row decodes to that row's instruction, but for FX1E without `P_FX1E`. -/
theorem decode_of_row_matches (c : Config) {w : Word} {k : Fin 34} (h : (rowAt k).matches w = true) :
    (k = 29 ∧ c.pFx1e = false ∧ decode c.pFx1e w = .undef w) ∨ decode c.pFx1e w = .instr (rowInstr w k) := by
  rw [rowAt_matches_iff] at h
  by_cases hk : k = 29
  · subst hk
    rw [decode_row_fx1e c.pFx1e h]
    cases c.pFx1e with
    | true => exact .inr rfl
    | false => exact .inl ⟨rfl, rfl, rfl⟩
  · exact .inr (encodedBy_row k hk c.pFx1e w h)

/-- Settles O8: rows are disjoint, every word is its instruction's word, and a matching word decodes to its row. -/
theorem decodeAgreesWithTheOpcodeMap : Obligations.DecodeAgreesWithTheOpcodeMap := by
  refine fun c w => ⟨fun i h => ?row, fun n hn h => ?decodes, fun m n hm hn h1 h2 => ?unique, fun h => ?undef⟩
  case row => exact encode_of_decode h ▸ opcodeRow_matches_encode i
  case decodes =>
    rcases decode_of_row_matches c (k := ⟨n, hn⟩) h with ⟨hk, hundef⟩ | hdec
    · exact .inl ⟨congrArg Fin.val hk, hundef⟩
    · exact .inr ⟨_, hdec, congrArg Fin.val (rowIndex_rowInstr w ⟨n, hn⟩)⟩
  case unique => exact congrArg Fin.val (rowAt_unique (j := ⟨m, hm⟩) (k := ⟨n, hn⟩) h1 h2)
  case undef =>
    rcases decode_total c.pFx1e w with hundef | ⟨i, hi⟩
    · exact hundef
    · exact absurd hi (h i)

/-- Settles O9: the decoder is run on each of the fifteen words. -/
theorem sampleWordsDecode : Obligations.SampleWordsDecode := by
  unfold Obligations.SampleWordsDecode
  decide

end Sys2Proof
end

section
/-! Memory and the state after reset (R40, R43, R61, R62, R64, R340, R341). -/

namespace Sys2Proof.Machine

theorem memWrite_unchangedExcept_mem (s : State) (a : Nat) (b : Byte) :
    UnchangedExcept [.mem] s (s.memWrite a b) := by
  obtain ⟨m, h⟩ := memWrite_shape s a b
  rw [h]
  exact unchangedExcept_mem s m

/-- Settles O4: the one-byte rule of memory, and that a write replaces memory alone. -/
theorem memoryReadsTheLastWrite : Obligations.MemoryReadsTheLastWrite :=
  fun s a b v => ⟨memRead_memWrite s a b v, memWrite_unchangedExcept_mem s a v⟩

/-! ## Fetch -/

theorem fetch_toNat (s : State) : s.fetch.toNat =
    256 * (s.memRead s.pc.toNat).toNat + (s.memRead ((s.pc.toNat + 1) % 65536)).toNat := by
  have hnext : (s.pc + 1#16).toNat = (s.pc.toNat + 1) % 65536 := BitVec.toNat_add s.pc 1#16
  rw [State.fetch, wordOfBytes_toNat, hnext]

/-- Without the protection of the font every write is read back. -/
theorem memRead_memWrite_unprotected {s : State} (h : s.cfg.pFontWp = false) (a b : Nat) (v : Byte) :
    (s.memWrite a v).memRead b = if b % 4096 = a % 4096 then v else s.memRead b := by
  simp [memRead_memWrite, h]

/-- Settles O5: fetch reads two bytes of different addresses, so each of the two writes is read back. -/
theorem fetchIsBigEndian : Obligations.FetchIsBigEndian := by
  refine fun s => ⟨fetch_toNat s, fun hi lo hwp => ?_⟩
  have hwp' : (s.memWrite s.pc.toNat hi).cfg.pFontWp = false := by rwa [memWrite_cfg]
  have hapart : s.pc.toNat % 4096 ≠ (s.pc.toNat + 1) % 65536 % 4096 := by omega
  rw [fetch_toNat, memWrite_pc, memWrite_pc, memRead_memWrite_unprotected hwp', memRead_memWrite_unprotected hwp',
    memRead_memWrite_unprotected hwp, if_neg hapart, if_pos rfl, if_pos rfl]

/-! ## Reset -/

theorem getV_resetWith (c : Config) (r : Reg) : (State.resetWith c).getV r = 0#8 := Vector.getElem_replicate r.isLt

theorem keyDown_resetWith (c : Config) (k : Nibble) : (State.resetWith c).keyDown k = false :=
  Vector.getElem_replicate k.isLt

theorem memRead_resetWith_zero (c : Config) {a : Nat} (h80 : 80 ≤ a) (ha : a < 4096) :
    (State.resetWith c).memRead a = 0#8 := by
  rw [memRead_resetWith, Nat.mod_eq_of_lt ha, unlisted_zero c h80]

/-- Settles O1: the fields of the reset state, and reads of its register file, keypad, screen and memory. -/
theorem resetLeavesEveryPartAsSpecified : Obligations.ResetLeavesEveryPartAsSpecified :=
  fun c => ⟨rfl, rfl, getV_resetWith c, rfl, rfl, fun k => Vector.getElem_replicate k.isLt, rfl, rfl,
    keyDown_resetWith c, rfl, rfl, fun k => cellAt_clear (k % 64) (k / 64), rfl, rfl, rfl,
    fun _ => memRead_resetWith_font c, fun _ => memRead_resetWith_zero c⟩

/-- A ROM of more than 3584 bytes is refused (R341). -/
theorem load_of_oversized (c : Config) {rom : List Byte} (h : 3584 < rom.length) :
    State.load c rom = .refused .loadError := if_pos h

/-- Settles O3: the load checks the length before it writes. -/
theorem oversizedRomIsALoadError : Obligations.OversizedRomIsALoadError := fun c _ => load_of_oversized c

end Sys2Proof.Machine
end

section
/-! Calls, returns, the jump by V0 and the skips on registers (R132, R134, R135, R138, R139, R302 to R304). -/

namespace Sys2Proof.Machine

theorem Part.same_refl (p : Part) (s : State) : p.same s s := by
  cases p with
  | mem | v | fb => exact fun _ => rfl
  | callStack => exact ⟨rfl, rfl⟩
  | keypad | cycleInput => exact ⟨rfl, rfl, rfl⟩
  | cfg | i | pc | dt | st | dirty | fault | ir => rfl

theorem UnchangedExcept.refl (ps : List Part) (s : State) : UnchangedExcept ps s s := fun p _ => p.same_refl s

/-! An update leaves every other part the same by definition, so each frame is reflexivity but for its own parts. -/

theorem raiseFault_unchangedExcept_fault (s : State) (f : FaultCode) : UnchangedExcept [.fault] s (s.raiseFault f) := by
  intro p hp
  cases p with
  | fault => exact absurd (List.mem_singleton.mpr rfl) hp
  | _ => exact (UnchangedExcept.refl _ s _ hp :)

theorem unchangedExcept_pc_callStack (s : State) (pc : Word) (sp : Fin 17) (stack : Vector Word 16) :
    UnchangedExcept [.pc, .callStack] s { s with pc := pc, sp := sp, stack := stack } := by
  intro p hp
  cases p with
  | pc | callStack => simp at hp
  | _ => exact (UnchangedExcept.refl _ s _ hp :)

/-- Settles O22: RET pops by lowering SP; it writes no entry. -/
theorem retResumesAfterTheCall : Obligations.RetResumesAfterTheCall :=
  ⟨encodedBy_row 1 (by decide), fun s h =>
    ⟨_, (exec_ret s).trans (congrArg Host.Outcome.next (returnFromCall_of_pos h)), rfl, BitVec.toNat_add _ 2#16, rfl,
      unchangedExcept_pc_callStack s _ _ s.stack⟩⟩

/-- Settles O23: with nothing to pop, RET raises the underflow fault. -/
theorem retOnAnEmptyStackFaults : Obligations.RetOnAnEmptyStackFaults :=
  fun s h => ⟨_, (exec_ret s).trans (congrArg Host.Outcome.next (returnFromCall_of_empty h)), rfl,
    raiseFault_unchangedExcept_fault s .stackUnderflow⟩

/-- Settles O25: CALL writes its own address to the entry at SP, then raises SP. -/
theorem callPushesItsOwnAddress : Obligations.CallPushesItsOwnAddress :=
  ⟨encodedBy_row 3 (by decide), fun nnn s h =>
    ⟨_, (exec_callNnn nnn s).trans (congrArg Host.Outcome.next (callTo_of_lt h (zext16 nnn))),
      Vector.getElem_set_self h, fun _ hk hne => Vector.getElem_set_ne h hk (Ne.symm hne), rfl, zext16_toNat nnn,
      unchangedExcept_pc_callStack s _ _ _⟩⟩

/-- Settles O26: with no entry left, CALL raises the overflow fault. -/
theorem callOnAFullStackFaults : Obligations.CallOnAFullStackFaults :=
  fun nnn s h => ⟨_, (exec_callNnn nnn s).trans (congrArg Host.Outcome.next (callTo_of_full h (zext16 nnn))), rfl,
    raiseFault_unchangedExcept_fault s .stackOverflow⟩

/-- A 12-bit address and a byte add to less than 2^16, so the sum does not wrap. -/
theorem jpV0Target_toNat (nnn : Addr12) (b : Byte) : (zext16 nnn + b.setWidth 16).toNat = nnn.toNat + b.toNat := by
  have hnnn : nnn.toNat < 4096 := nnn.isLt
  have hb : b.toNat < 256 := b.isLt
  rw [BitVec.toNat_add, zext16_toNat, BitVec.toNat_setWidth_of_le (by decide), Nat.mod_eq_of_lt (by omega)]

theorem exec_jpV0Nnn (nnn : Addr12) (s : State) :
    exec (.jpV0Nnn nnn) s = .next (s.setPc (zext16 nnn + (s.getV 0).setWidth 16)) := rfl

/-- Settles O28: the jump writes PC alone, with the sum that does not wrap. -/
theorem jpV0AddsRegisterZero : Obligations.JpV0AddsRegisterZero :=
  ⟨encodedBy_row 20 (by decide), fun nnn s =>
    ⟨_, exec_jpV0Nnn nnn s, jpV0Target_toNat nnn (s.getV 0), setPc_unchangedExcept_pc s _⟩⟩

/-- Settles O30: both skips are `skipIf`, SE on the comparison of VX with VY and SNE on its negation. -/
theorem registerSkips : Obligations.RegisterSkips := by
  refine ⟨encodedBy_row 6 (by decide), encodedBy_row 18 (by decide), fun x y s => ⟨?se, ?sne⟩⟩
  case se =>
    refine ⟨s.skipIf (s.getV x == s.getV y), rfl, ?_, skipIf_unchangedExcept_pc s _⟩
    simpa using skipIf_pcAdvancedBy s (s.getV x == s.getV y)
  case sne =>
    refine ⟨s.skipIf (s.getV x != s.getV y), rfl, ?_, skipIf_unchangedExcept_pc s _⟩
    simpa using skipIf_pcAdvancedBy s (s.getV x != s.getV y)

end Sys2Proof.Machine
end

section
/-! The logic instructions and the shifts of group 8 (R172 to R174, R177, R179). -/

namespace Sys2Proof.Machine

section
variable (x y : Reg) (s : State)

theorem exec_orVxVy : exec (.orVxVy x y) s = .next (s.setV x (s.getV x ||| s.getV y)).advance := rfl

theorem exec_andVxVy : exec (.andVxVy x y) s = .next (s.setV x (s.getV x &&& s.getV y)).advance := rfl

theorem exec_xorVxVy : exec (.xorVxVy x y) s = .next (s.setV x (s.getV x ^^^ s.getV y)).advance := rfl

theorem exec_shrVx : exec (.shrVx x y) s =
    .next (s.setResultThenFlag x (s.getV x >>> 1) (shrFlag (s.getV x))).advance := rfl

theorem exec_shlVx : exec (.shlVx x y) s =
    .next (s.setResultThenFlag x (s.getV x <<< 1) (shlFlag (s.getV x))).advance := rfl

end

/-- `setV_advance_spec` with the new VX described bit by bit. -/
theorem setV_advance_bits_spec (s : State) (x : Reg) {b : Byte} {bits : Nat → Bool} (hb : ∀ k, b.getLsbD k = bits k) :
    (∀ k, ((s.setV x b).advance.getV x).getLsbD k = bits k) ∧ RegsUnchangedExcept (· = x) s (s.setV x b).advance ∧
      PcAdvancedBy 2 s (s.setV x b).advance ∧ UnchangedExcept [.v, .pc] s (s.setV x b).advance := by
  obtain ⟨hvx, hrest⟩ := setV_advance_spec s x b
  exact ⟨fun k => by rw [hvx, hb], hrest⟩

/-- Settles O34: each writes VX alone, with the bitwise operation of the old values. -/
theorem logicOpsLeaveTheFlag : Obligations.LogicOpsLeaveTheFlag :=
  ⟨encodedBy_row 10 (by decide), encodedBy_row 11 (by decide), encodedBy_row 12 (by decide), fun x y s =>
    ⟨⟨_, exec_orVxVy x y s, setV_advance_bits_spec s x fun _ => BitVec.getLsbD_or⟩,
      ⟨_, exec_andVxVy x y s, setV_advance_bits_spec s x fun _ => BitVec.getLsbD_and⟩,
      ⟨_, exec_xorVxVy x y s, setV_advance_bits_spec s x fun _ => BitVec.getLsbD_xor⟩⟩⟩

theorem byte_shiftRight_one_toNat (a : Byte) : (a >>> 1).toNat = a.toNat / 2 := by
  rw [BitVec.toNat_ushiftRight, Nat.shiftRight_eq_div_pow, Nat.pow_one]

theorem byte_shiftLeft_one_toNat (a : Byte) : (a <<< 1).toNat = a.toNat * 2 % 256 := by
  rw [BitVec.toNat_shiftLeft, Nat.shiftLeft_eq, Nat.pow_one]

/-- Settles O37: the shifted VX is written first and the bit shifted out last. -/
theorem shiftsSetTheBitShiftedOut : Obligations.ShiftsSetTheBitShiftedOut :=
  ⟨encodedBy_row 15 (by decide), encodedBy_row 17 (by decide), fun x y s =>
    ⟨⟨_, exec_shrVx x y s, setResultThenFlag_advance_spec s x (shrFlag_toNat _) (byte_shiftRight_one_toNat _)⟩,
      ⟨_, exec_shlVx x y s, setResultThenFlag_advance_spec s x (shlFlag_toNat _) (byte_shiftLeft_one_toNat _)⟩⟩⟩

end Sys2Proof.Machine
end

section
/-! ADD I, VX and the memory transfers (R202, R204 to R206). -/

namespace Sys2Proof.Machine

/-! ## ADD I, VX -/

theorem exec_addIVx (x : Reg) (s : State) :
    exec (.addIVx x) s = .next (s.setI (s.i + (s.getV x).setWidth 16)).advance := rfl

theorem indexSum_toNat (a : Word) (b : Byte) : (a + b.setWidth 16).toNat = (a.toNat + b.toNat) % 65536 := by
  rw [BitVec.toNat_add, BitVec.toNat_setWidth_of_le (by decide)]

/-- Settles O39: the row's decoding depends on `P_FX1E`; the instruction writes the 16-bit sum to I alone. -/
theorem addIndexWrapsWithoutFlag : Obligations.AddIndexWrapsWithoutFlag :=
  ⟨fun _ h => ⟨decode_row_fx1e true h, decode_row_fx1e false h⟩,
    fun x s => ⟨_, exec_addIVx x s, setI_advance_spec s (indexSum_toNat s.i (s.getV x))⟩⟩

/-! ## Bytes written from I on -/

theorem writeBytes_unchangedExcept_mem (s : State) (a : Nat) (bs : List Byte) :
    UnchangedExcept [.mem] s (s.writeBytes a bs) := by
  obtain ⟨m, h⟩ := writeBytes_shape s a bs
  rw [h]
  exact unchangedExcept_mem s m

theorem memRead_writeBytes_dataAddr (s : State) {bs : List Byte} (hlen : bs.length ≤ 4096) {k : Nat}
    (hk : k < bs.length) (hwp : ¬ (s.cfg.pFontWp = true ∧ s.dataAddr k % 4096 < 80)) :
    (s.writeBytes (s.dataAddr 0) bs).memRead (s.dataAddr k) = bs[k] :=
  memRead_writeBytes_at s (s.dataAddr 0) bs hlen k hk hwp

theorem memRead_writeBytes_dataAddr_other (s : State) {bs : List Byte} {a : Nat}
    (h : (∀ k, k < bs.length → a % 4096 ≠ s.dataAddr k % 4096) ∨ (s.cfg.pFontWp = true ∧ a % 4096 < 80)) :
    (s.writeBytes (s.dataAddr 0) bs).memRead a = s.memRead a :=
  memRead_writeBytes_other s (s.dataAddr 0) a bs h

/-- PC two on, when the updates before the advance kept it. -/
theorem advance_pcAdvancedBy_of_pc_eq {s u : State} (h : u.pc = s.pc) : PcAdvancedBy 2 s u.advance :=
  pcAdvancedBy_of_pc_eq (d := 2#16) (congrArg (· + 2#16) h)

/-! ## LD B, VX -/

theorem exec_ldBVx (x : Reg) (s : State) :
    exec (.ldBVx x) s = .next (s.writeBytes (s.dataAddr 0) (bcdDigits (s.getV x))).advance := rfl

/-- The three digits; each is below 256, so its byte holds it whole. -/
theorem bcdDigits_getElem_toNat (b : Byte) {k : Nat} (hk : k < 3) : ((bcdDigits b)[k]'hk).toNat =
    if k = 0 then b.toNat / 100 else if k = 1 then b.toNat / 10 % 10 else b.toNat % 10 := by
  have hb : b.toNat < 256 := b.isLt
  match k, hk with
  | 0, _ => exact (BitVec.toNat_ofNat _ 8).trans (Nat.mod_eq_of_lt (by omega))
  | 1, _ => exact (BitVec.toNat_ofNat _ 8).trans (Nat.mod_eq_of_lt (by omega))
  | 2, _ => exact (BitVec.toNat_ofNat _ 8).trans (Nat.mod_eq_of_lt (by omega))

/-- Settles O41: the three digits are written from I on, then PC advances. -/
theorem bcdStoresThreeDigits : Obligations.BcdStoresThreeDigits := by
  refine ⟨encodedBy_row 31 (by decide), fun x s => ⟨_, exec_ldBVx x s, fun k hk hwp => ?digit,
    fun _ ha => memRead_writeBytes_dataAddr_other s ha, ?pc, ?frame⟩⟩
  case digit =>
    have hread := memRead_writeBytes_dataAddr s (bs := bcdDigits (s.getV x)) (by simp [bcdDigits]) hk hwp
    exact (congrArg BitVec.toNat hread).trans (bcdDigits_getElem_toNat (s.getV x) hk)
  case pc => exact advance_pcAdvancedBy_of_pc_eq (writeBytes_pc s _ _)
  case frame => exact (writeBytes_unchangedExcept_mem s _ _).trans (advance_unchangedExcept_pc _)

/-! ## LD [I], VX and LD VX, [I] -/

theorem postIncrementI_unchangedExcept_i (s : State) (x : Reg) : UnchangedExcept [.i] s (s.postIncrementI x) := by
  unfold State.postIncrementI
  split
  · exact setI_unchangedExcept_i s _
  · exact .refl _ s

theorem exec_ldMemVx (x : Reg) (s : State) : exec (.ldMemVx x) s =
    .next ((s.writeBytes (s.dataAddr 0) (s.regsUpTo x)).postIncrementI x).advance := rfl

theorem exec_ldVxMem (x : Reg) (s : State) :
    exec (.ldVxMem x) s = .next ((s.loadRegs x).postIncrementI x).advance := rfl

/-- Settles O42: the registers latched before the writes are written from I on, then I and PC move on. -/
theorem registerDumpStoresV0ToVx : Obligations.RegisterDumpStoresV0ToVx := by
  refine ⟨encodedBy_row 32 (by decide), fun x s => ⟨_, exec_ldMemVx x s, fun k hk hwp => ?stored,
    fun a ha => ?other, ?i, ?pc, ?frame⟩⟩
  case stored =>
    have hlen := regsUpTo_length s x
    have hread := memRead_writeBytes_dataAddr s (bs := s.regsUpTo x) (by omega) (k := k.val) (by omega) hwp
    rw [regsUpTo_getElem] at hread
    rw [advance_memRead, postIncrementI_memRead, hread]
  case other =>
    rw [advance_memRead, postIncrementI_memRead]
    refine memRead_writeBytes_dataAddr_other s (ha.imp_left fun h k hk => h k ?_)
    rw [regsUpTo_length] at hk
    omega
  case i => rw [advance_i, postIncrementI_i_toNat, writeBytes_cfg, writeBytes_i]
  case pc => exact advance_pcAdvancedBy_of_pc_eq (by rw [postIncrementI_pc, writeBytes_pc])
  case frame =>
    exact ((writeBytes_unchangedExcept_mem s _ _).trans (postIncrementI_unchangedExcept_i _ x)).trans
      (advance_unchangedExcept_pc _)

theorem unchangedExcept_v (s : State) (v : Vector Byte 16) : UnchangedExcept [.v] s { s with v := v } := by
  intro p hp
  cases p with
  | v => exact absurd (List.mem_singleton.mpr rfl) hp
  | _ => exact (UnchangedExcept.refl _ s _ hp :)

/-- Settles O43: the registers are loaded from the memory of before, then I and PC move on. -/
theorem registerLoadReadsV0ToVx : Obligations.RegisterLoadReadsV0ToVx := by
  refine ⟨encodedBy_row 33 (by decide), fun x s => ⟨_, exec_ldVxMem x s, fun r => ?loaded, ?i, ?pc, ?frame⟩⟩
  case loaded => rw [advance_getV, postIncrementI_getV, getV_loadRegs]
  case i => rw [advance_i, postIncrementI_i_toNat, loadRegs_cfg, loadRegs_i]
  case pc => exact advance_pcAdvancedBy_of_pc_eq (by rw [postIncrementI_pc, loadRegs_pc])
  case frame =>
    exact ((unchangedExcept_v s _).trans (postIncrementI_unchangedExcept_i _ x)).trans (advance_unchangedExcept_pc _)

end Sys2Proof.Machine
end

section
/-! The draw instruction (R241 to R244): cells, collision, and a second draw of the same sprite. -/

namespace Sys2Proof.Machine

theorem exec_drwVxVyN (x y : Reg) (n : Nibble) (s : State) : exec (.drwVxVyN x y n) s = .next
    ((s.setScreen (s.drawSprite x y n).1).setV vF (collisionFlag (s.drawSprite x y n).2)).advance := rfl

/-- A draw collides exactly when a cell of the screen that a set bit covers was 1. -/
theorem collided_drawSprite_iff_cell (s : State) (x y : Reg) (n : Nibble) :
    (s.drawSprite x y n).2 = true ↔
      ∃ cx cy, cx < 64 ∧ cy < 32 ∧ spriteCovers s x y n cx cy = true ∧ cellAt s.fb cx cy = true := by
  have hn : n.toNat < 16 := n.isLt
  rw [collided_drawSprite]
  constructor
  · rintro ⟨r, c, hr, hc, hbit, hcell⟩
    refine ⟨((s.getV x).toNat + c) % 64, ((s.getV y).toNat + r) % 32, Nat.mod_lt _ (by decide),
      Nat.mod_lt _ (by decide), ?_, (cellAt_mod s.fb _ _).trans hcell⟩
    rw [spriteCovers_iff, rowOffset_of_add _ r (by omega), colOffset_of_add _ c (by omega)]
    exact ⟨hr, hc, hbit⟩
  · rintro ⟨cx, cy, hcx, hcy, hcov, hcell⟩
    obtain ⟨hr, hc, hbit⟩ := (spriteCovers_iff s x y n cx cy).mp hcov
    refine ⟨_, _, hr, hc, hbit, ?_⟩
    rwa [← cellAt_mod, add_colOffset _ cx hcx, add_rowOffset _ cy hcy]

/-- Settles O45: the draw engine's cells and collision, read cell by cell; VF and PC are written after the screen. -/
theorem drawFlipsExactlyTheCoveredCells : Obligations.DrawFlipsExactlyTheCoveredCells := by
  refine ⟨encodedBy_row 22 (by decide), fun x y n s => ⟨_, exec_drwVxVyN x y n s, fun cx cy hcx _ => ?cells,
    fun hset => ?collision, fun hclear => ?noCollision, rfl, ?regs, ?pc, ?frame⟩⟩
  case cells =>
    rw [fbCell_index _ hcx, fbCell_index _ hcx]
    exact cellAt_drawSprite s x y n cx cy
  case collision =>
    have hcol : (s.drawSprite x y n).2 = true := by
      obtain ⟨cx, cy, hcx, hcy, hcov, hcell⟩ := hset
      rw [fbCell_index s hcx] at hcell
      exact (collided_drawSprite_iff_cell s x y n).mpr ⟨cx, cy, hcx, hcy, hcov, hcell⟩
    rw [advance_getV, getV_setV_same, hcol]; rfl
  case noCollision =>
    have hcol : (s.drawSprite x y n).2 = false := by
      rw [← Bool.not_eq_true, collided_drawSprite_iff_cell]
      rintro ⟨cx, cy, hcx, hcy, hcov, hcell⟩
      have hzero := hclear cx cy hcx hcy hcov
      rw [fbCell_index s hcx, hcell] at hzero
      cases hzero
    rw [advance_getV, getV_setV_same, hcol]; rfl
  case regs => exact setV_regsUnchangedExcept (s.setScreen _) vF _
  case pc => exact advance_pcAdvancedBy_of_pc_eq rfl
  case frame =>
    exact (setScreen_unchangedExcept_fb_dirty s _).trans (setV_advance_unchangedExcept_v_pc _ vF _)

/-- The covered cells depend on the origin registers, I and the bytes of the sprite alone. -/
theorem spriteCovers_congr {s t : State} {x y : Reg} (hx : t.getV x = s.getV x) (hy : t.getV y = s.getV y)
    (hi : t.i = s.i) (hm : ∀ a, t.memRead a = s.memRead a) (n : Nibble) (cx cy : Nat) :
    spriteCovers t x y n cx cy = spriteCovers s x y n cx cy := by
  rw [spriteCovers, spriteCovers, hx, hy, hi, hm]

section
variable {x y : Reg} {n : Nibble} {s t : State}

theorem cellAt_of_draw (h : exec (.drwVxVyN x y n) s = .next t) (cx cy : Nat) :
    cellAt t.fb cx cy = (cellAt s.fb cx cy ^^ spriteCovers s x y n cx cy) := by
  rw [exec_drwVxVyN] at h
  cases h
  exact cellAt_drawSprite s x y n cx cy

/-- A draw writes no register but VF, so with another origin the next draw covers the same cells. -/
theorem spriteCovers_of_draw (hx : x ≠ vF) (hy : y ≠ vF) (h : exec (.drwVxVyN x y n) s = .next t) (cx cy : Nat) :
    spriteCovers t x y n cx cy = spriteCovers s x y n cx cy := by
  rw [exec_drwVxVyN] at h
  cases h
  exact spriteCovers_congr (setV_regsUnchangedExcept (s.setScreen _) vF _ x hx)
    (setV_regsUnchangedExcept (s.setScreen _) vF _ y hy) rfl (fun _ => rfl) n cx cy

end

/-- Settles O46: the second draw covers the cells the first one covered, and a cell flipped twice is as before. -/
theorem drawingTwiceRestoresTheScreen : Obligations.DrawingTwiceRestoresTheScreen := by
  intro x y n s s1 hx hy h1
  refine ⟨_, exec_drwVxVyN x y n s1, screen_ext fun cx cy _ _ => ?_⟩
  rw [cellAt_of_draw (exec_drwVxVyN x y n s1), cellAt_of_draw h1, spriteCovers_of_draw hx hy h1, Bool.xor_assoc,
    Bool.xor_self, Bool.xor_false]

end Sys2Proof.Machine
end

section
/-! The keypad instructions, LD DT, VX and the host's reads (R260 to R263, R281, R327). -/

namespace Sys2Proof.Machine

/-! ## The key skips -/

/-- The key an instruction names is VX modulo 16 (R260). -/
theorem keyIndex_eq_of_toNat {s : State} {x : Reg} {k : Nibble} (h : k.toNat = (s.getV x).toNat % 16) :
    s.keyIndex x = k := by
  apply BitVec.eq_of_toNat_eq
  rw [h]
  exact BitVec.extractLsb'_toNat 0 4 (s.getV x)

theorem skipIf_not_pcAdvancedBy (s : State) (c : Bool) : PcAdvancedBy (if c then 2 else 4) s (s.skipIf !c) := by
  cases c with
  | true => exact skipIf_pcAdvancedBy s false
  | false => exact skipIf_pcAdvancedBy s true

theorem exec_skpVx (x : Reg) (s : State) : exec (.skpVx x) s = .next (s.skipIf (s.keyDown (s.keyIndex x))) := rfl

theorem exec_sknpVx (x : Reg) (s : State) : exec (.sknpVx x) s = .next (s.skipIf (!s.keyDown (s.keyIndex x))) := rfl

/-- Settles O47: both skips are `skipIf`, SKP on the flag of the key that VX names and SKNP on its negation. -/
theorem keySkips : Obligations.KeySkips := by
  refine ⟨encodedBy_row 23 (by decide), encodedBy_row 24 (by decide), fun x k s hk => ⟨?skp, ?sknp⟩⟩
  case skp =>
    refine ⟨_, exec_skpVx x s, ?_, skipIf_unchangedExcept_pc s _⟩
    rw [keyIndex_eq_of_toNat hk]
    exact skipIf_pcAdvancedBy s (s.keyDown k)
  case sknp =>
    refine ⟨_, exec_sknpVx x s, ?_, skipIf_unchangedExcept_pc s _⟩
    rw [keyIndex_eq_of_toNat hk]
    exact skipIf_not_pcAdvancedBy s (s.keyDown k)

/-! ## LD VX, K -/

theorem exec_ldVxK_pending (x : Reg) {s : State} (h : s.inputPending = true) :
    exec (.ldVxK x) s = .next (s.setV x (s.lastKey.setWidth 8)).advance := congrArg Host.Outcome.next (if_pos h)

theorem exec_ldVxK_waiting (x : Reg) {s : State} (h : s.inputPending = false) : exec (.ldVxK x) s = .next s :=
  congrArg Host.Outcome.next (if_neg (by simp [h]))

/-- Settles O48: with a key pending VX is written and PC advances; without one the state is the answer. -/
theorem keyWaitTakesThePendingKey : Obligations.KeyWaitTakesThePendingKey := by
  refine ⟨encodedBy_row 26 (by decide), fun x s => ⟨fun h => ?pending, fun h => ?waiting⟩⟩
  case pending =>
    obtain ⟨hvx, hrest⟩ := setV_advance_spec s x (s.lastKey.setWidth 8)
    refine ⟨_, exec_ldVxK_pending x h, ?_, hrest⟩
    rw [hvx, BitVec.toNat_setWidth_of_le (by decide)]
  case waiting => exact ⟨s, exec_ldVxK_waiting x h, .refl [] s⟩

/-! ## LD DT, VX -/

theorem setDt_unchangedExcept_dt (s : State) (b : Byte) : UnchangedExcept [.dt] s (s.setDt b) := by
  intro p hp
  cases p with
  | dt => exact absurd (List.mem_singleton.mpr rfl) hp
  | _ => exact (UnchangedExcept.refl _ s _ hp :)

theorem exec_ldDtVx (x : Reg) (s : State) : exec (.ldDtVx x) s = .next (s.setDt (s.getV x)).advance := rfl

/-- Settles O50: LD writes VX to DT, and the timer step then counts the new DT down. -/
theorem writeDelayTimer : Obligations.WriteDelayTimer := by
  refine ⟨encodedBy_row 27 (by decide), fun x s => ⟨_, exec_ldDtVx x s, rfl, advance_pcAdvancedBy (s.setDt _),
    (setDt_unchangedExcept_dt s _).trans (advance_unchangedExcept_pc _)⟩, fun x s h hd => ?cycle⟩
  case cycle =>
    have hstep := step_of_instr_running h hd (exec_ldDtVx x _) (by simpa using h)
    have hcount := countDown_toNat (s.getV x)
    exact ⟨_, hstep, by simpa using hcount⟩

/-! ## The host's reads -/

theorem readFramebuffer_getElem? (s : State) {k : Nat} (hk : k < 2048) :
    s.readFramebuffer[k]? = some (s.fbCell k) := by
  rw [State.readFramebuffer, List.getElem?_map, List.getElem?_range hk]; rfl

theorem faultCode_code_toNat (f : FaultCode) :
    f.code.toNat = match f with | .none => 0 | .stackOverflow => 1 | .stackUnderflow => 2 := by
  cases f <;> rfl

/-- Settles O60: the read of the screen lists the cells in the order of their index; the other reads are fields. -/
theorem hostReadsAnswerTheState : Obligations.HostReadsAnswerTheState := by
  refine fun s => ⟨?length, fun x y hx hy => ?cell, rfl, rfl, faultCode_code_toNat s.fault⟩
  case length => rw [State.readFramebuffer, List.length_map, List.length_range]
  case cell => rw [readFramebuffer_getElem? s (by omega), fbCell_index s hx]

end Sys2Proof.Machine
end

section
/-! What any instruction can change (R22, R23, R37, R60, R107): its parts, its registers, its bytes of memory, FAULT and
DIRTY, and what no instruction reads. -/

namespace Sys2Proof.Machine

/-! ## The parts an instruction can write -/

/-- The parts of State that an instruction can write; FAULT is written by a CALL or RET that faults, and only then. -/
def writtenParts : Instr → List Part
  | .cls => [.fb, .dirty, .pc]
  | .ret | .callNnn _ => [.pc, .callStack, .fault]
  | .jpNnn _ | .jpV0Nnn _ | .seVxNn _ _ | .sneVxNn _ _ | .seVxVy _ _ | .sneVxVy _ _ | .skpVx _ | .sknpVx _ => [.pc]
  | .ldVxNn _ _ | .addVxNn _ _ | .ldVxVy _ _ | .orVxVy _ _ | .andVxVy _ _ | .xorVxVy _ _ | .addVxVy _ _
  | .subVxVy _ _ | .shrVx _ _ | .subnVxVy _ _ | .shlVx _ _ | .rndVxNn _ _ | .ldVxDt _ | .ldVxK _ => [.v, .pc]
  | .ldINnn _ | .addIVx _ | .ldFVx _ => [.i, .pc]
  | .drwVxVyN _ _ _ => [.fb, .dirty, .v, .pc]
  | .ldDtVx _ => [.dt, .pc]
  | .ldStVx _ => [.st, .pc]
  | .ldBVx _ => [.mem, .pc]
  | .ldMemVx _ => [.mem, .i, .pc]
  | .ldVxMem _ => [.v, .i, .pc]

theorem UnchangedExcept.mono {ps qs : List Part} {s t : State} (h : UnchangedExcept ps s t) (hsub : ps ⊆ qs) :
    UnchangedExcept qs s t := fun p hp => h p fun hmem => hp (hsub hmem)

theorem callTo_unchangedExcept (s : State) (target : Word) :
    UnchangedExcept [.pc, .callStack, .fault] s (s.callTo target) := by
  rcases callTo_cases s target with ⟨_, h⟩ | ⟨_, h⟩ <;> rw [h]
  · exact (unchangedExcept_pc_callStack s _ _ _).mono (by decide)
  · exact (raiseFault_unchangedExcept_fault s _).mono (by decide)

theorem returnFromCall_unchangedExcept (s : State) : UnchangedExcept [.pc, .callStack, .fault] s s.returnFromCall := by
  rcases returnFromCall_cases s with ⟨_, h⟩ | ⟨_, h⟩ <;> rw [h]
  · exact (unchangedExcept_pc_callStack s _ _ s.stack).mono (by decide)
  · exact (raiseFault_unchangedExcept_fault s _).mono (by decide)

theorem exec_ldVxK_unchangedExcept (x : Reg) (s : State) :
    ∃ t, exec (.ldVxK x) s = .next t ∧ UnchangedExcept [.v, .pc] s t := by
  cases h : s.inputPending with
  | true => exact ⟨_, exec_ldVxK_pending x h, setV_advance_unchangedExcept_v_pc s x _⟩
  | false => exact ⟨s, exec_ldVxK_waiting x h, .refl _ s⟩

/-- Every instruction answers a next state and keeps every part its row does not name. -/
theorem exec_frame (i : Instr) (s : State) : ∃ t, exec i s = .next t ∧ UnchangedExcept (writtenParts i) s t := by
  cases i with
  | cls => exact ⟨_, rfl, (setScreen_unchangedExcept_fb_dirty s _).trans (advance_unchangedExcept_pc _)⟩
  | ret => exact ⟨_, exec_ret s, returnFromCall_unchangedExcept s⟩
  | callNnn nnn => exact ⟨_, exec_callNnn nnn s, callTo_unchangedExcept s _⟩
  | jpNnn | jpV0Nnn | seVxNn | sneVxNn | seVxVy | sneVxVy | skpVx | sknpVx =>
    exact ⟨_, rfl, setPc_unchangedExcept_pc s _⟩
  | ldVxNn x | addVxNn x | ldVxVy x | orVxVy x | andVxVy x | xorVxVy x | rndVxNn x | ldVxDt x =>
    exact ⟨_, rfl, setV_advance_unchangedExcept_v_pc s x _⟩
  | addVxVy x | subVxVy x | shrVx x | subnVxVy x | shlVx x =>
    exact ⟨_, rfl, (setResultThenFlag_unchangedExcept_v s x _ _).trans (advance_unchangedExcept_pc _)⟩
  | ldVxK x => exact exec_ldVxK_unchangedExcept x s
  | ldINnn | addIVx | ldFVx =>
    exact ⟨_, rfl, (setI_unchangedExcept_i s _).trans (advance_unchangedExcept_pc _)⟩
  | drwVxVyN x y n =>
    exact ⟨_, exec_drwVxVyN x y n s,
      (setScreen_unchangedExcept_fb_dirty s _).trans (setV_advance_unchangedExcept_v_pc _ vF _)⟩
  | ldDtVx x => exact ⟨_, rfl, (setDt_unchangedExcept_dt s _).trans (advance_unchangedExcept_pc _)⟩
  | ldStVx x => exact ⟨_, rfl, (setSt_unchangedExcept_st s _).trans (advance_unchangedExcept_pc _)⟩
  | ldBVx x =>
    exact ⟨_, exec_ldBVx x s, (writeBytes_unchangedExcept_mem s _ _).trans (advance_unchangedExcept_pc _)⟩
  | ldMemVx x =>
    exact ⟨_, exec_ldMemVx x s, ((writeBytes_unchangedExcept_mem s _ _).trans
      (postIncrementI_unchangedExcept_i _ x)).trans (advance_unchangedExcept_pc _)⟩
  | ldVxMem x =>
    exact ⟨_, exec_ldVxMem x s, ((unchangedExcept_v s _).trans
      (postIncrementI_unchangedExcept_i _ x)).trans (advance_unchangedExcept_pc _)⟩

theorem exec_unchangedExcept {i : Instr} {s t : State} (h : exec i s = .next t) :
    UnchangedExcept (writtenParts i) s t := by
  obtain ⟨u, hu, hframe⟩ := exec_frame i s
  cases hu.symm.trans h
  exact hframe

/-- The parts that belong to the host are written by no instruction. -/
theorem hostParts_not_written (i : Instr) : .keypad ∉ writtenParts i ∧ .cfg ∉ writtenParts i ∧
    .ir ∉ writtenParts i ∧ .cycleInput ∉ writtenParts i := by
  cases i <;> simp [writtenParts]

/-- Settles O55: none of the four parts is among those an instruction can write. -/
theorem instructionsLeaveTheHostsState : Obligations.InstructionsLeaveTheHostsState := by
  intro i s t h
  obtain ⟨hkeypad, hcfg, hir, hinput⟩ := hostParts_not_written i
  have hframe := exec_unchangedExcept h
  exact ⟨hframe _ hkeypad, hframe _ hcfg, hframe _ hir, hframe _ hinput⟩

/-! ## Registers -/

theorem exec_ldVxK_regsUnchangedExcept {x : Reg} {s t : State} (h : exec (.ldVxK x) s = .next t) :
    RegsUnchangedExcept (· = x) s t := by
  cases hp : s.inputPending with
  | true => cases (exec_ldVxK_pending x hp).symm.trans h; exact setV_regsUnchangedExcept s x _
  | false => cases (exec_ldVxK_waiting x hp).symm.trans h; exact fun _ _ => rfl

/-- Settles O52: an instruction whose row names no register keeps the register file; the others write VX, VX and then
VF, VF alone, or V0 to VX. -/
theorem onlyNamedRegistersAreWritten : Obligations.OnlyNamedRegistersAreWritten := by
  intro i s t r h hr
  cases i with
  | ldVxNn x | addVxNn x | ldVxVy x | orVxVy x | andVxVy x | xorVxVy x | rndVxNn x | ldVxDt x =>
    cases h
    exact setV_regsUnchangedExcept s x _ r (of_decide_eq_false hr)
  | addVxVy x | subVxVy x | shrVx x | subnVxVy x | shlVx x =>
    cases h
    exact setResultThenFlag_regsUnchangedExcept s x _ _ r (by simpa [writesReg] using hr)
  | ldVxK x => exact exec_ldVxK_regsUnchangedExcept h r (of_decide_eq_false hr)
  | drwVxVyN x y n =>
    cases (exec_drwVxVyN x y n s).symm.trans h
    exact setV_regsUnchangedExcept (s.setScreen _) vF _ r (of_decide_eq_false hr)
  | ldVxMem x =>
    cases (exec_ldVxMem x s).symm.trans h
    rw [advance_getV, postIncrementI_getV, getV_loadRegs, if_neg (of_decide_eq_false hr)]
  | _ => exact exec_unchangedExcept h .v (by simp [writtenParts]) r

/-! ## Memory -/

/-- The cells after an instruction: as before, or after a run of writes. -/
theorem exec_mem_cases {i : Instr} {s t : State} (h : exec i s = .next t) :
    t.mem = s.mem ∨ ∃ a bs, t.mem = (s.writeBytes a bs).mem := by
  cases i with
  | ret =>
    cases (exec_ret s).symm.trans h
    rcases returnFromCall_cases s with ⟨_, hu⟩ | ⟨_, hu⟩ <;> rw [hu] <;> exact .inl rfl
  | callNnn nnn =>
    cases (exec_callNnn nnn s).symm.trans h
    rcases callTo_cases s (zext16 nnn) with ⟨_, hu⟩ | ⟨_, hu⟩ <;> rw [hu] <;> exact .inl rfl
  | ldVxK x =>
    cases hp : s.inputPending with
    | true => cases (exec_ldVxK_pending x hp).symm.trans h; exact .inl rfl
    | false => cases (exec_ldVxK_waiting x hp).symm.trans h; exact .inl rfl
  | ldBVx x => cases (exec_ldBVx x s).symm.trans h; exact .inr ⟨_, _, rfl⟩
  | ldMemVx x => cases (exec_ldMemVx x s).symm.trans h; exact .inr ⟨_, _, postIncrementI_mem _ x⟩
  | ldVxMem x =>
    cases (exec_ldVxMem x s).symm.trans h
    exact .inl ((postIncrementI_mem _ x).trans (loadRegs_mem s x))
  | _ => cases h; exact .inl rfl

/-- Every instruction keeps memory's canonical form. -/
theorem exec_mem_wf {i : Instr} {s t : State} (h : exec i s = .next t) (hwf : Memory.wf s.cfg s.mem = true) :
    Memory.wf s.cfg t.mem = true := by
  rcases exec_mem_cases h with hm | ⟨a, bs, hm⟩ <;> rw [hm]
  · exact hwf
  · exact writeBytes_wf hwf a bs

/-- Settles O53: memory is a written part of FX33 and FX55 only, and a byte they do not address reads as before. -/
theorem onlyTwoInstructionsWriteMemory : Obligations.OnlyTwoInstructionsWriteMemory := by
  intro i s t a h hne
  cases i with
  | ldBVx x =>
    cases (exec_ldBVx x s).symm.trans h
    refine .inl ⟨x, rfl, by_contra fun hout => hne ?_⟩
    exact memRead_writeBytes_dataAddr_other s (.inl fun k hk heq => hout ⟨k, hk, heq⟩)
  | ldMemVx x =>
    cases (exec_ldMemVx x s).symm.trans h
    refine .inr ⟨x, rfl, by_contra fun hout => hne ?_⟩
    rw [advance_memRead, postIncrementI_memRead]
    refine memRead_writeBytes_dataAddr_other s (.inl fun k hk heq => hout ⟨k, ?_, heq⟩)
    rw [regsUpTo_length] at hk
    omega
  | _ => exact absurd (exec_unchangedExcept h .mem (by simp [writtenParts]) a) hne

/-! ## FAULT and DIRTY -/

/-- Settles O54: FAULT is a written part of CALL and RET only, and they write it only where they fault. -/
theorem onlyStackFaultsWriteFault : Obligations.OnlyStackFaultsWriteFault := by
  intro i s t h hne
  cases i with
  | callNnn nnn =>
    cases (exec_callNnn nnn s).symm.trans h
    rcases callTo_cases s (zext16 nnn) with ⟨_, hu⟩ | ⟨hsp, hu⟩
    · rw [hu] at hne; exact absurd rfl hne
    · exact .inl ⟨⟨nnn, rfl⟩, hsp, hu⟩
  | ret =>
    cases (exec_ret s).symm.trans h
    rcases returnFromCall_cases s with ⟨_, hu⟩ | ⟨hsp, hu⟩
    · rw [hu] at hne; exact absurd rfl hne
    · exact .inr ⟨rfl, hsp, hu⟩
  | _ => exact absurd (exec_unchangedExcept h .fault (by simp [writtenParts])) hne

theorem unchangedExcept_dirty (s : State) (dirty : Bool) : UnchangedExcept [.dirty] s { s with dirty := dirty } := by
  intro p hp
  cases p with
  | dirty => exact absurd (List.mem_singleton.mpr rfl) hp
  | _ => exact (UnchangedExcept.refl _ s _ hp :)

/-- Settles O56: DIRTY is a written part of CLS and DRW only, which set it, and ClearDirty is a write of DIRTY. -/
theorem dirtyIsSetByDrawsAndClearedByTheHost : Obligations.DirtyIsSetByDrawsAndClearedByTheHost := by
  refine ⟨fun i s t h => ?_, fun s => ⟨rfl, unchangedExcept_dirty s false⟩⟩
  cases i with
  | cls => cases h; exact (Bool.or_true s.dirty).symm
  | drwVxVyN x y n => cases (exec_drwVxVyN x y n s).symm.trans h; exact (Bool.or_true s.dirty).symm
  | _ =>
    rw [Bool.or_false]
    exact exec_unchangedExcept h .dirty (by simp [writtenParts])

end Sys2Proof.Machine
end

section
/-! Noninterference (R30, R36, R38, R230): no instruction reads ST, DIRTY or IR, and only CXNN the random byte. -/

namespace Sys2Proof.Machine

/-- ST, DIRTY, IR and the random byte replaced. -/
def State.withUnread (s : State) (st : Byte) (dirty : Bool) (ir : Word) (rnd : Byte) : State :=
  { s with st := st, dirty := dirty, ir := ir, rnd := rnd }

theorem exec_ldVxK (x : Reg) (s : State) : exec (.ldVxK x) s =
    .next (if s.inputPending then (s.setV x (s.lastKey.setWidth 8)).advance else s) := rfl

section
variable (s : State) (st : Byte) (dirty : Bool) (ir : Word) (rnd : Byte)

theorem memWrite_withUnread (a : Nat) (b : Byte) :
    (s.withUnread st dirty ir rnd).memWrite a b = (s.memWrite a b).withUnread st dirty ir rnd := by
  rw [State.memWrite, State.memWrite, apply_ite (State.withUnread · st dirty ir rnd)]; rfl

theorem writeBytes_withUnread (a : Nat) (bs : List Byte) :
    (s.withUnread st dirty ir rnd).writeBytes a bs = (s.writeBytes a bs).withUnread st dirty ir rnd := by
  induction bs generalizing s a with
  | nil => rfl
  | cons b bs ih => rw [State.writeBytes, memWrite_withUnread, ih, State.writeBytes]

theorem postIncrementI_withUnread (x : Reg) :
    (s.withUnread st dirty ir rnd).postIncrementI x = (s.postIncrementI x).withUnread st dirty ir rnd := by
  rw [State.postIncrementI, State.postIncrementI, apply_ite (State.withUnread · st dirty ir rnd)]; rfl

theorem callTo_withUnread (target : Word) :
    (s.withUnread st dirty ir rnd).callTo target = (s.callTo target).withUnread st dirty ir rnd := by
  rw [State.callTo, State.callTo, apply_dite (State.withUnread · st dirty ir rnd)]; rfl

theorem returnFromCall_withUnread :
    (s.withUnread st dirty ir rnd).returnFromCall = s.returnFromCall.withUnread st dirty ir rnd := by
  rw [State.returnFromCall, State.returnFromCall, apply_dite (State.withUnread · st dirty ir rnd)]; rfl

theorem exec_ldVxK_withUnread (x : Reg) : ∃ t, exec (.ldVxK x) s = .next t ∧
    exec (.ldVxK x) (s.withUnread st dirty ir rnd) = .next (t.withUnread st dirty ir rnd) :=
  ⟨_, exec_ldVxK x s, by rw [exec_ldVxK, apply_ite (State.withUnread · st dirty ir rnd)]; rfl⟩

theorem exec_ldBVx_withUnread (x : Reg) : ∃ t, exec (.ldBVx x) s = .next t ∧
    exec (.ldBVx x) (s.withUnread st dirty ir rnd) = .next (t.withUnread st dirty ir rnd) := by
  refine ⟨_, exec_ldBVx x s, ?_⟩
  rw [exec_ldBVx, writeBytes_withUnread]
  rfl

theorem exec_ldMemVx_withUnread (x : Reg) : ∃ t, exec (.ldMemVx x) s = .next t ∧
    exec (.ldMemVx x) (s.withUnread st dirty ir rnd) = .next (t.withUnread st dirty ir rnd) := by
  refine ⟨_, exec_ldMemVx x s, ?_⟩
  rw [exec_ldMemVx, writeBytes_withUnread, postIncrementI_withUnread]
  rfl

theorem loadRegs_withUnread (x : Reg) :
    (s.withUnread st dirty ir rnd).loadRegs x = (s.loadRegs x).withUnread st dirty ir rnd := rfl

theorem exec_ldVxMem_withUnread (x : Reg) : ∃ t, exec (.ldVxMem x) s = .next t ∧
    exec (.ldVxMem x) (s.withUnread st dirty ir rnd) = .next (t.withUnread st dirty ir rnd) := by
  refine ⟨_, exec_ldVxMem x s, ?_⟩
  rw [exec_ldVxMem, loadRegs_withUnread, postIncrementI_withUnread]
  rfl

end

/-- Settles O57. An instruction that writes neither ST nor DIRTY leaves the replaced values where they are; CLS, DRW and
LD ST overwrite one of them. -/
theorem unreadStateDoesNotInfluence : Obligations.UnreadStateDoesNotInfluence := by
  intro i s st dirty ir rnd hrnd
  cases i with
  | cls => exact ⟨_, rfl, st, true, rfl⟩
  | drwVxVyN x y n => exact ⟨_, exec_drwVxVyN x y n s, st, true, rfl⟩
  | ldStVx x => exact ⟨_, exec_ldStVx x s, s.getV x, dirty, rfl⟩
  | rndVxNn x nn => obtain rfl := hrnd x nn rfl; exact ⟨_, exec_rndVxNn x nn s, st, dirty, rfl⟩
  | ret => exact ⟨_, exec_ret s, st, dirty, congrArg Host.Outcome.next (returnFromCall_withUnread s st dirty ir rnd)⟩
  | callNnn nnn =>
    exact ⟨_, exec_callNnn nnn s, st, dirty, congrArg Host.Outcome.next (callTo_withUnread s st dirty ir rnd _)⟩
  | ldVxK x =>
    obtain ⟨t, ht, hunread⟩ := exec_ldVxK_withUnread s st dirty ir rnd x
    exact ⟨t, ht, st, dirty, hunread⟩
  | ldBVx x =>
    obtain ⟨t, ht, hunread⟩ := exec_ldBVx_withUnread s st dirty ir rnd x
    exact ⟨t, ht, st, dirty, hunread⟩
  | ldMemVx x =>
    obtain ⟨t, ht, hunread⟩ := exec_ldMemVx_withUnread s st dirty ir rnd x
    exact ⟨t, ht, st, dirty, hunread⟩
  | ldVxMem x =>
    obtain ⟨t, ht, hunread⟩ := exec_ldVxMem_withUnread s st dirty ir rnd x
    exact ⟨t, ht, st, dirty, hunread⟩
  | _ => exact ⟨_, rfl, st, dirty, rfl⟩

end Sys2Proof.Machine
end

section
/-! The cycle (R110, R283, R301 to R305, R322): what it takes in, what it does in every state, and what it reports. -/

namespace Sys2Proof.Machine

/-! ## The inputs of a cycle -/

theorem unchangedExcept_cycleInput (s : State) (rnd : Byte) (rndIndex : Nat) (script : List CycleInput) :
    UnchangedExcept [.cycleInput] s { s with rnd := rnd, rndIndex := rndIndex, script := script } := by
  intro p hp
  cases p with
  | cycleInput => exact absurd (List.mem_singleton.mpr rfl) hp
  | _ => exact (UnchangedExcept.refl _ s _ hp :)

theorem perform_unchangedExcept (s : State) (e : HostEvent) : UnchangedExcept [.keypad, .dirty] s (s.perform e) := by
  cases e with
  | setKey k down => exact (setKey_unchangedExcept_keypad s k down).mono (by decide)
  | keyPressEdge k => exact (keyPressEdge_unchangedExcept_keypad s k).mono (by decide)
  | clearPending => exact (clearPending_unchangedExcept_keypad s).mono (by decide)
  | clearDirty => exact (unchangedExcept_dirty s false).mono (by decide)

theorem takeInput_unchangedExcept (s : State) : UnchangedExcept [.keypad, .dirty, .cycleInput] s s.takeInput := by
  obtain ⟨key, lastKey, pending, dirty, rnd, rndIndex, script, h⟩ := takeInput_shape s
  rw [h]
  exact ((unchangedExcept_keypad s key lastKey pending).trans (unchangedExcept_dirty _ dirty)).trans
    (unchangedExcept_cycleInput _ rnd rndIndex script)

theorem takeInput_of_nil {s : State} (h : s.script = []) :
    s.takeInput = { s with rnd := Config.freeRandomByte s.rndIndex, rndIndex := s.rndIndex + 1 } := by
  rw [State.takeInput, h]

theorem performAll_eq_foldl (s : State) (es : List HostEvent) : s.performAll es = es.foldl State.perform s := by
  induction es generalizing s with
  | nil => rfl
  | cons e es ih => exact ih (s.perform e)

theorem takeInput_of_cons {s : State} {c : CycleInput} {cs : List CycleInput} (h : s.script = c :: cs) :
    s.takeInput = { c.events.foldl State.perform s with rnd := c.rnd, script := cs } := by
  rw [State.takeInput, h, ← performAll_eq_foldl]

theorem setIr_unchangedExcept_ir (s : State) (w : Word) : UnchangedExcept [.ir] s (s.setIr w) := by
  intro p hp
  cases p with
  | ir => exact absurd (List.mem_singleton.mpr rfl) hp
  | _ => exact (UnchangedExcept.refl _ s _ hp :)

/-! ## The end of a cycle -/

theorem tickTimers_unchangedExcept (s : State) : UnchangedExcept [.dt, .st] s s.tickTimers :=
  (setDt_unchangedExcept_dt s _).trans (setSt_unchangedExcept_st _ _)

theorem endOfCycle_eq (t : State) : endOfCycle t = if t.fault = .none then
    { t with dt := BitVec.ofNat 8 (t.dt.toNat - 1), st := BitVec.ofNat 8 (t.st.toNat - 1) } else t := by
  rw [endOfCycle, State.tickTimers, countDown_eq_ofNat, countDown_eq_ofNat]
  rfl

/-- Settles O10: the inputs of the cycle, then the decoded instruction with IR loaded, then the end of the cycle. -/
theorem stepRunsTheDecodedInstruction : Obligations.StepRunsTheDecodedInstruction := by
  refine fun s i h hd => ⟨takeInput_unchangedExcept s, fun hnil => ?drawn, fun _ _ => takeInput_of_cons,
    fun t ht => ?step⟩
  case drawn =>
    rw [takeInput_of_nil hnil]
    exact unchangedExcept_cycleInput s _ _ s.script
  case step => rw [step_of_instr h hd ht, endOfCycle_eq]

/-- Settles O11: an undefined word advances PC after IR is loaded, and the timer step follows. -/
theorem undefinedWordIsANoOp : Obligations.UndefinedWordIsANoOp := by
  intro s w h hd
  have hend : endOfCycle (s.takeInput.setIr s.fetch).advance = (s.takeInput.setIr s.fetch).advance.tickTimers :=
    endOfCycle_of_running (by simpa using h)
  refine ⟨_, (step_of_undef h hd).trans (congrArg Host.Outcome.next hend), ?pc, rfl, ?dt, ?st, ?frame⟩
  case pc => exact pcAdvancedBy_of_pc_eq (d := 2#16) (by simp)
  case dt => rw [tickTimers_dt, countDown_toNat, advance_dt, setIr_dt, takeInput_dt]
  case st => rw [tickTimers_st, countDown_toNat, advance_st, setIr_st, takeInput_st]
  case frame =>
    exact (((setIr_unchangedExcept_ir _ _).trans (advance_unchangedExcept_pc _)).trans
      (tickTimers_unchangedExcept _)).mono (by decide)

/-- Settles O14: a halted step and a halted `Cycle(rnd)` are the inputs alone. -/
theorem haltedCycleChangesNothing : Obligations.HaltedCycleChangesNothing := by
  refine fun s h => ⟨step_of_halted h, fun rnd => ?_⟩
  have hcycle : runCycle { s with rnd := rnd } = .next { s with rnd := rnd } := runCycle_of_halted h
  rw [State.hostCycle, hcycle]
  simp [cycleOutcome, h]

/-! ## All that a cycle of a running core can do -/

/-- The word is undefined; the instruction completes; a CALL overflows; a RET underflows (R104, R110, R301). -/
theorem runCycle_cases {s : State} (h : s.fault = .none) :
    (∃ w, decode s.cfg.pFx1e s.fetch = .undef w ∧ runCycle s = .next (s.setIr s.fetch).advance.tickTimers) ∨
    (∃ i t, decode s.cfg.pFx1e s.fetch = .instr i ∧ exec i (s.setIr s.fetch) = .next t ∧ t.fault = .none ∧
      runCycle s = .next t.tickTimers) ∨
    (∃ nnn, decode s.cfg.pFx1e s.fetch = .instr (.callNnn nnn) ∧ s.sp.val = 16 ∧
      runCycle s = .next ((s.setIr s.fetch).raiseFault .stackOverflow)) ∨
    (decode s.cfg.pFx1e s.fetch = .instr .ret ∧ s.sp.val = 0 ∧
      runCycle s = .next ((s.setIr s.fetch).raiseFault .stackUnderflow)) := by
  rcases decode_total s.cfg.pFx1e s.fetch with hd | ⟨i, hd⟩
  · exact .inl ⟨_, hd, (runCycle_of_undef h hd).trans (congrArg Host.Outcome.next (endOfCycle_of_running h))⟩
  · obtain ⟨t, ht, -⟩ := exec_frame i (s.setIr s.fetch)
    have hrun := runCycle_of_instr h hd ht
    by_cases hf : t.fault = .none
    · exact .inr (.inl ⟨i, t, hd, ht, hf, hrun.trans (congrArg Host.Outcome.next (endOfCycle_of_running hf))⟩)
    · rw [endOfCycle_of_faulted hf] at hrun
      have hne : t.fault ≠ (s.setIr s.fetch).fault := fun heq => hf (heq.trans h)
      rcases onlyStackFaultsWriteFault i _ t ht hne with ⟨⟨nnn, rfl⟩, hsp, rfl⟩ | ⟨rfl, hsp, rfl⟩
      · exact .inr (.inr (.inl ⟨nnn, hd, hsp, hrun⟩))
      · exact .inr (.inr (.inr ⟨hd, hsp, hrun⟩))

theorem runCycle_total (s : State) : ∃ t, runCycle s = .next t := by
  by_cases h : s.fault = .none
  · rcases runCycle_cases h with ⟨_, _, hrun⟩ | ⟨_, _, _, _, _, hrun⟩ | ⟨_, _, _, hrun⟩ | ⟨_, _, hrun⟩ <;>
      exact ⟨_, hrun⟩
  · exact ⟨s, runCycle_of_halted h⟩

/-- Settles O12: a cycle answers a next state in each of its cases. -/
theorem everyStepAnswersANextState : Obligations.EveryStepAnswersANextState := fun s => runCycle_total s.takeInput

/-- A fault entry differs from the state with the cycle's inputs in IR and FAULT alone (R304). -/
theorem faultEntry_unchangedExcept (s : State) (w : Word) (f : FaultCode) :
    UnchangedExcept [.fault, .ir] s ((s.setIr w).raiseFault f) :=
  ((setIr_unchangedExcept_ir s w).trans (raiseFault_unchangedExcept_fault _ f)).mono (by decide)

/-- An instruction that raises the fault `f` ends its step at once: no timer step follows. -/
theorem step_of_instr_faulted {s : State} {i : Instr} {f : FaultCode} (h : s.fault = .none)
    (hd : decode s.cfg.pFx1e s.fetch = .instr i) (hf : f ≠ .none)
    (he : exec i (s.takeInput.setIr s.fetch) = .next ((s.takeInput.setIr s.fetch).raiseFault f)) :
    step s = .next ((s.takeInput.setIr s.fetch).raiseFault f) :=
  (step_of_instr h hd he).trans (congrArg Host.Outcome.next (endOfCycle_of_faulted hf))

/-- Settles O15: with SP = 16 the CALL is the fault entry. -/
theorem stackOverflowEntryIsPrecise : Obligations.StackOverflowEntryIsPrecise := by
  intro s nnn h hsp hd
  have hcall := callTo_of_full (s := s.takeInput.setIr s.fetch) (by simpa using hsp) (zext16 nnn)
  exact ⟨_, step_of_instr_faulted h hd (by decide) (congrArg Host.Outcome.next hcall), rfl, rfl, rfl,
    faultEntry_unchangedExcept _ _ _⟩

/-- Settles O16: with SP = 0 the RET is the fault entry. -/
theorem stackUnderflowEntryIsPrecise : Obligations.StackUnderflowEntryIsPrecise := by
  intro s h hsp hd
  have hret := returnFromCall_of_empty (s := s.takeInput.setIr s.fetch) (by simpa using hsp)
  exact ⟨_, step_of_instr_faulted h hd (by decide) (congrArg Host.Outcome.next hret), rfl, rfl, rfl,
    faultEntry_unchangedExcept _ _ _⟩

/-! ## The timers -/

section
variable {i : Instr} {s t : State}

theorem exec_dt_of_ne (h : exec i s = .next t) (hne : ∀ x, i ≠ .ldDtVx x) : t.dt = s.dt := by
  cases i with
  | ldDtVx x => exact absurd rfl (hne x)
  | _ => exact exec_unchangedExcept h .dt (by simp [writtenParts])

theorem exec_st_of_ne (h : exec i s = .next t) (hne : ∀ x, i ≠ .ldStVx x) : t.st = s.st := by
  cases i with
  | ldStVx x => exact absurd rfl (hne x)
  | _ => exact exec_unchangedExcept h .st (by simp [writtenParts])

end

/-- Settles O13: the timer step counts what the instruction left in the timers, and a fault entry keeps them. -/
theorem timersCountOncePerCycle : Obligations.TimersCountOncePerCycle := by
  intro s h
  have hcases := runCycle_cases (s := s.takeInput) (by simpa using h)
  simp only [takeInput_cfg, takeInput_fetch] at hcases
  rcases hcases with ⟨w, hd, hrun⟩ | ⟨i, u, hd, hu, huf, hrun⟩ | ⟨nnn, -, -, hrun⟩ | ⟨-, -, hrun⟩
  · refine ⟨_, hrun, fun _ => ?counted, fun hne => absurd (by simpa using h) hne⟩
    case counted => simp [hd, countDown_toNat]
  · refine ⟨_, hrun, fun _ => ⟨fun hi => ?dtKept, fun x hx => ?dtWritten, fun hi => ?stKept, fun x hx => ?stWritten⟩,
      fun hne => absurd huf hne⟩
    case dtKept => rw [tickTimers_dt, countDown_toNat, exec_dt_of_ne hu fun x hx => hi x (hx ▸ hd)]; simp
    case dtWritten => cases hd.symm.trans hx; cases (exec_ldDtVx x _).symm.trans hu; simp [countDown_toNat]
    case stKept => rw [tickTimers_st, countDown_toNat, exec_st_of_ne hu fun x hx => hi x (hx ▸ hd)]; simp
    case stWritten => cases hd.symm.trans hx; cases (exec_ldStVx x _).symm.trans hu; simp [countDown_toNat]
  · exact ⟨_, hrun, fun hnone => by simp at hnone, fun _ => by simp⟩
  · exact ⟨_, hrun, fun hnone => by simp at hnone, fun _ => by simp⟩

/-! ## What `Cycle(rnd)` reports -/

theorem waitsForKey_iff (s : State) : s.waitsForKey = true ↔
    s.inputPending = false ∧ ∃ x, decode s.cfg.pFx1e s.fetch = .instr (.ldVxK x) := by
  unfold State.waitsForKey
  split
  case h_1 x hd => simp [hd]
  case h_2 hd =>
    constructor
    · exact fun hfalse => nomatch hfalse
    · rintro ⟨-, x, hx⟩; exact absurd hx (hd x)

section
variable (before after : State)

theorem cycleOutcome_eq_halted_iff : cycleOutcome before after = .halted ↔ before.fault ≠ .none := by
  unfold cycleOutcome; split_ifs <;> simp_all

theorem cycleOutcome_eq_faulted_iff :
    cycleOutcome before after = .faulted ↔ before.fault = .none ∧ after.fault ≠ .none := by
  unfold cycleOutcome; split_ifs <;> simp_all

theorem cycleOutcome_eq_waiting_iff : cycleOutcome before after = .waiting ↔
    before.fault = .none ∧ after.fault = .none ∧ before.waitsForKey = true := by
  unfold cycleOutcome; split_ifs <;> simp_all

end

/-- A waiting cycle loads IR and counts the timers, and does nothing else (R263). -/
theorem runCycle_of_waiting {s : State} (h : s.fault = .none) (hwait : s.waitsForKey = true) :
    runCycle s = .next (s.setIr s.fetch).tickTimers := by
  obtain ⟨hpending, x, hd⟩ := (waitsForKey_iff s).mp hwait
  exact (runCycle_of_instr h hd (exec_ldVxK_waiting x hpending)).trans
    (congrArg Host.Outcome.next (endOfCycle_of_running h))

theorem hostCycle_of_runCycle {s t : State} {rnd : Byte} (h : runCycle { s with rnd := rnd } = .next t) :
    s.hostCycle rnd = .next (t, cycleOutcome s t) := by
  rw [State.hostCycle, h]

/-- Settles O17: the outcome is read off the two states; a waiting cycle keeps FAULT and PC. -/
theorem cycleOutcomeSaysWhatHappened : Obligations.CycleOutcomeSaysWhatHappened := by
  intro s rnd
  obtain ⟨t, ht⟩ := runCycle_total { s with rnd := rnd }
  have hwaiting (h : s.fault = .none) (hw : s.waitsForKey = true) : t.fault = .none ∧ t.pc = s.pc := by
    cases (runCycle_of_waiting (s := { s with rnd := rnd }) h hw).symm.trans ht
    exact ⟨h, rfl⟩
  refine ⟨t, _, hostCycle_of_runCycle ht, cycleOutcome_eq_halted_iff s t, cycleOutcome_eq_faulted_iff s t, ?waits, ?pc⟩
  case waits =>
    rw [cycleOutcome_eq_waiting_iff, ← waitsForKey_iff]
    exact ⟨fun ⟨h, _, hw⟩ => ⟨h, hw⟩, fun ⟨h, hw⟩ => ⟨h, (hwaiting h hw).1, hw⟩⟩
  case pc =>
    intro ho
    obtain ⟨h, -, hw⟩ := (cycleOutcome_eq_waiting_iff s t).mp ho
    exact (hwaiting h hw).2

end Sys2Proof.Machine
end

section
/-! The invariant (R302 to R305, R340; log 7): it holds after every load and every move of the host keeps it. -/

namespace Sys2Proof.Machine

/-! ## States with and without a fault -/

theorem faultRecorded_of_running {s : State} (h : s.fault = .none) : FaultRecorded s := by
  rw [FaultRecorded, h]; trivial

theorem inv_of_running {s : State} (hwf : Memory.wf s.cfg s.mem = true) (h : s.fault = .none) : s.Inv :=
  ⟨hwf, faultRecorded_of_running h⟩

/-- The invariant speaks of the parameters, the cells, FAULT, SP, IR and PC alone. -/
theorem inv_congr {s t : State} (hcfg : t.cfg = s.cfg) (hmem : t.mem = s.mem) (hfault : t.fault = s.fault)
    (hsp : t.sp = s.sp) (hir : t.ir = s.ir) (hpc : t.pc = s.pc) (h : s.Inv) : t.Inv := by
  obtain ⟨hwf, hrec⟩ := h
  have hfetch : t.fetch = s.fetch := fetch_congr hcfg hmem hpc
  refine ⟨by rwa [hcfg, hmem], ?_⟩
  rw [FaultRecorded] at hrec ⊢
  rwa [hfault, hsp, hir, hfetch]

theorem takeInput_inv {s : State} (h : s.Inv) : s.takeInput.Inv :=
  inv_congr (takeInput_cfg s) (takeInput_mem s) (takeInput_fault s) (takeInput_sp s) (takeInput_ir s)
    (takeInput_pc s) h

theorem perform_inv {s : State} (e : HostEvent) (h : s.Inv) : (s.perform e).Inv := by
  cases e <;> exact inv_congr rfl rfl rfl rfl rfl rfl h

/-! ## A cycle -/

/-- A word that decodes to a CALL has the leading nibble 2. -/
theorem fieldO_of_decode_callNnn {fx1e : Bool} {w : Word} {nnn : Addr12}
    (h : decode fx1e w = .instr (.callNnn nnn)) : fieldO w = 0x2#4 := by
  rw [← encode_of_decode h]
  exact fieldO_packA 0x2#4 nnn

/-- A fault entry loads IR with the word that faulted, and leaves it where PC still points. -/
theorem overflowEntry_recorded {s : State} {nnn : Addr12} (hsp : s.sp.val = 16)
    (hd : decode s.cfg.pFx1e s.fetch = .instr (.callNnn nnn)) :
    FaultRecorded ((s.setIr s.fetch).raiseFault .stackOverflow) :=
  ⟨hsp, fieldO_of_decode_callNnn hd, fetch_congr rfl rfl rfl⟩

theorem underflowEntry_recorded {s : State} (hsp : s.sp.val = 0) (hd : decode s.cfg.pFx1e s.fetch = .instr .ret) :
    FaultRecorded ((s.setIr s.fetch).raiseFault .stackUnderflow) :=
  ⟨hsp, (encode_of_decode hd).symm, fetch_congr rfl rfl rfl⟩

theorem runCycle_inv {s t : State} (hinv : s.Inv) (hrun : runCycle s = .next t) : t.Inv := by
  by_cases h : s.fault = .none
  case neg => cases (runCycle_of_halted h).symm.trans hrun; exact hinv
  case pos =>
    obtain ⟨hwf, -⟩ := hinv
    rcases runCycle_cases h with ⟨w, -, ht⟩ | ⟨i, u, -, hu, huf, ht⟩ | ⟨nnn, hd, hsp, ht⟩ | ⟨hd, hsp, ht⟩ <;>
      cases ht.symm.trans hrun
    · exact inv_of_running hwf h
    · obtain ⟨-, hkept, -⟩ := hostParts_not_written i
      have hcfg : u.cfg = s.cfg := exec_unchangedExcept hu .cfg hkept
      refine inv_of_running ?_ huf
      rw [tickTimers_cfg, tickTimers_mem, hcfg]
      exact exec_mem_wf (s := s.setIr s.fetch) hu hwf
    · exact ⟨hwf, overflowEntry_recorded hsp hd⟩
    · exact ⟨hwf, underflowEntry_recorded hsp hd⟩

/-- Settles O19: taking the inputs keeps all that the invariant speaks of, and the cycle keeps the invariant. -/
theorem stepKeepsTheInvariant : Obligations.StepKeepsTheInvariant :=
  fun _ _ hinv hstep => runCycle_inv (takeInput_inv hinv) hstep

/-! ## Loads and moves -/

theorem resetWith_inv (c : Config) : (State.resetWith c).Inv := inv_of_running (wf_nil c) rfl

/-- A load that answers a state is the loader's writes over the reset state (R340, R341). -/
theorem eq_of_load {c : Config} {rom : List Byte} {t : State} (h : State.load c rom = .next t) :
    t = (State.resetWith c).pokeBytes loadAddress rom := by
  unfold State.load at h
  split at h <;> cases h
  rfl

theorem load_inv {c : Config} {rom : List Byte} {t : State} (h : State.load c rom = .next t) : t.Inv := by
  rw [eq_of_load h]
  refine inv_of_running ?_ (pokeBytes_fault _ _ _)
  rw [pokeBytes_cfg]
  exact pokeBytes_wf (wf_nil c) loadAddress rom

/-- Settles O18: reset lists no cell, the loader's writes keep the canonical form, and neither sets FAULT. -/
theorem everyLoadedStateMeetsTheInvariant : Obligations.EveryLoadedStateMeetsTheInvariant :=
  ⟨resetWith_inv defaultConfig, fun _ _ _ => load_inv⟩

/-- The host's Reset is a load that keeps the host's own two fields. -/
theorem hostReset_cases {s t : State} {rom : List Byte} (h : s.hostReset rom = .next t) :
    ∃ u, State.load s.cfg rom = .next u ∧ t = { u with rndIndex := s.rndIndex, script := s.script } := by
  unfold State.hostReset at h
  split at h <;> cases h
  exact ⟨_, ‹_›, rfl⟩

theorem move_inv {s t : State} (m : HostMove) (hinv : s.Inv) (h : s.move m = .next t) : t.Inv := by
  cases m with
  | reset rom =>
    obtain ⟨u, hu, rfl⟩ := hostReset_cases h
    exact inv_congr (s := u) rfl rfl rfl rfl rfl rfl (load_inv hu)
  | cycle rnd => exact runCycle_inv (s := { s with rnd := rnd }) (inv_congr (s := s) rfl rfl rfl rfl rfl rfl hinv) h
  | event e => cases h; exact perform_inv e hinv

/-- A run that answers a state made its first move to a state from which the rest of it answers. -/
theorem moves_cons {s t : State} {m : HostMove} {ms : List HostMove} (h : s.moves (m :: ms) = .next t) :
    ∃ u, s.move m = .next u ∧ u.moves ms = .next t := by
  unfold State.moves at h
  split at h
  case h_1 u hu => exact ⟨u, hu, h⟩
  all_goals cases h

/-- Settles O20, by induction on the moves. -/
theorem hostMovesKeepTheInvariant : Obligations.HostMovesKeepTheInvariant := by
  intro s t ms hinv h
  induction ms generalizing s with
  | nil => cases h; exact hinv
  | cons m ms ih =>
    obtain ⟨u, hu, hrest⟩ := moves_cons h
    exact ih u (move_inv m hinv hu) hrest

/-! ## Leaving the halted state -/

/-- Settles O59: a reset answers a loaded state; a halted cycle takes its random byte alone, and an event writes the
keypad and DIRTY. -/
theorem onlyResetLeavesTheHaltedState : Obligations.OnlyResetLeavesTheHaltedState := by
  intro s t m hhalted h
  cases m with
  | reset rom =>
    obtain ⟨u, hu, rfl⟩ := hostReset_cases h
    rw [eq_of_load hu]
    exact .inl ⟨⟨rom, rfl⟩, pokeBytes_fault _ _ _, pokeBytes_pc _ _ _, congrArg Fin.val (pokeBytes_sp _ _ _)⟩
  | cycle rnd =>
    cases (runCycle_of_halted (s := { s with rnd := rnd }) hhalted).symm.trans h
    exact .inr ⟨by simp, (unchangedExcept_cycleInput s rnd s.rndIndex s.script).mono (by decide)⟩
  | event e =>
    cases h
    exact .inr ⟨by simp, (perform_unchangedExcept s e).mono (by decide)⟩

end Sys2Proof.Machine
end
